-- ==== Sys2Proof/Word.lean ====
section
/-! DEFINITION. The word types of the sequencer: what 10_state.md rule R20 and 20_memory.md rule R51 give as fixed
numbers of bits. Every quantity is unsigned (R13); bit 0 is the least significant bit. -/

namespace Sys2Proof

/-- One byte of a byte string (R14). -/
abbrev Byte := BitVec 8

/-- One cipher block, and one cipher key: KEY, V, CK and the CIPH port are all 128 bits (R21, R22, R30, R51). -/
abbrev Block := BitVec 128

/-- A word of `seedlen_bits` bits: SEEDL, TEMP and the word SEEDW of the SEED port (R28, R29, R53). -/
abbrev SeedWord := BitVec 256

/-- The command word of the CMD port (R81). -/
abbrev CmdWord := BitVec 64

/-- The response word of the RSP port (R86). -/
abbrev RspWord := BitVec 32

end Sys2Proof
end

