-- ==== Sys2Proof/Config.lean ====
section
/-! DEFINITION. What is fixed for one machine: the parameter table of 00_scope.md rule R9 with its relations (R10), the
block cipher function `E` (R16), and the one value the spec leaves free, the cipher's key after reset (R34).
The record of the hardware itself, `Machine.hw`, stands in Machine/Aes.lean, where the default of `E` is defined. -/

namespace Sys2Proof

/-- The parameters of R9, each with the table's value as its default, and `E` of R16.
The rules hold for every `E`; `Machine.hw` takes AES-128. -/
structure Config where
  /-- width of the cipher key and of KEY -/
  keylenBits : Nat := 128
  /-- `keylen_bits / 8` -/
  keylenBytes : Nat := 16
  /-- width of one cipher block -/
  outlenBits : Nat := 128
  /-- `outlen_bits / 8` -/
  outlenBytes : Nat := 16
  /-- `keylen_bits + outlen_bits` -/
  seedlenBits : Nat := 256
  /-- length of a seed in bytes -/
  seedlenBytes : Nat := 32
  /-- `n`, the byte length of the FixedWidthCounter V -/
  counterBytes : Nat := 16
  /-- the most GENERATE commands between two reseeds -/
  reseedInterval : Nat := 1000
  /-- `W_RC`, the width of the register RC -/
  wRc : Nat := 32
  /-- `W_LEN`, the width of the LEN field -/
  wLen : Nat := 32
  /-- `E(K, X)`: one block encrypted under one key (R16) -/
  E : Block → Block → Block

/-- The relations of R10 between the parameters, and the widths the registers of `Machine.State` have (R20).
What stays open under them is `E` and the reseed interval. -/
structure Config.Wf (c : Config) : Prop where
  keylenBytes_eq : c.keylenBytes = c.keylenBits / 8
  outlenBytes_eq : c.outlenBytes = c.outlenBits / 8
  seedlenBits_eq : c.seedlenBits = c.keylenBits + c.outlenBits
  seedlenBytes_eq : c.seedlenBytes = c.keylenBytes + c.outlenBytes
  counterBytes_eq : c.counterBytes = c.outlenBytes
  outlen_divides_seedlen : c.outlenBytes ∣ c.seedlenBytes
  interval_fits : c.reseedInterval + 1 < 2 ^ c.wRc
  keyWidth : c.keylenBits = 128
  blockWidth : c.outlenBits = 128
  rcWidth : c.wRc = 32
  lenWidth : c.wLen = 32

/-- FREE VALUE (R34, 93_implementation_defined.md U2): the cipher's key CK after the `n`-th reset.
It has no body, so nothing can be proved of it; no rule reads CK before a `CipherRekey`. Log entry 3. -/
opaque Config.ckAfterReset : Nat → Block

end Sys2Proof
end

