-- ==== Sys2Proof/Machine/Bytes.lean ====
section
/-! DEFINITION. Byte strings (R14) and the correspondence between a register and the byte string it holds (R15). A byte
string is a list of bytes, first byte first; there is one byte order, big-endian (R59). -/

namespace Sys2Proof.Machine

/-- `be_int(B)`: the big-endian integer of a byte string (R14). -/
def beInt (B : List Byte) : Nat := B.foldl (fun acc b => 256 * acc + b.toNat) 0

/-- `be_bytes(v, k)`: the `k` bytes whose big-endian integer is `v`, for `v < 256^k` (R14). -/
def beBytes (v : Nat) : Nat → List Byte
  | 0 => []
  | k + 1 => beBytes (v / 256) k ++ [BitVec.ofNat 8 v]

/-- `zero(k)`: `k` bytes 0x00 (R14). -/
def zeroBytes (k : Nat) : List Byte := List.replicate k 0

/-- `A xor B`, byte-wise, for byte strings of one length (R14). -/
def xorBytes (A B : List Byte) : List Byte := List.zipWith (· ^^^ ·) A B

/-- The 16 bytes a 128-bit register holds, most significant first (R15). -/
def blockBytes (b : Block) : List Byte := beBytes b.toNat 16

/-- The 128-bit register that holds a string of 16 bytes (R15). -/
def blockOf (B : List Byte) : Block := BitVec.ofNat 128 (beInt B)

/-- `be_bytes(SEEDW, 32)`: the 32 bytes a 256-bit word holds (R53). -/
def seedBytes (w : SeedWord) : List Byte := beBytes w.toNat 32

end Sys2Proof.Machine
end

