-- ==== Sys2Proof/Machine/Aes.lean ====
section
/-! DEFINITION. The instance of `E` this hardware uses (R16): AES-128 on one block. The spec names AES-128 and leaves its
inside to general knowledge (93_implementation_defined.md G1, G2): this file is PRESUMED from FIPS 197 (log entry 2), and
agrees with every value of 95_test_vectors.md section 2 (Tests/Slice0.lean). No rule and no statement rests on it. -/

namespace Sys2Proof.Machine

/-- The S-box of FIPS 197, sixteen bytes a row, the row's first byte most significant. -/
def sboxRows : List Nat :=
  [0x637C777BF26B6FC53001672BFED7AB76,
   0xCA82C97DFA5947F0ADD4A2AF9CA472C0,
   0xB7FD9326363FF7CC34A5E5F171D83115,
   0x04C723C31896059A071280E2EB27B275,
   0x09832C1A1B6E5AA0523BD6B329E32F84,
   0x53D100ED20FCB15B6ACBBE394A4C58CF,
   0xD0EFAAFB434D338545F9027F503C9FA8,
   0x51A3408F929D38F5BCB6DA2110FFF3D2] ++
  [0xCD0C13EC5F974417C4A77E3D645D1973,
   0x60814FDC222A908846EEB814DE5E0BDB,
   0xE0323A0A4906245CC2D3AC629195E479,
   0xE7C8376D8DD54EA96C56F4EA657AAE08,
   0xBA78252E1CA6B4C6E8DD741F4BBD8B8A,
   0x703EB5664803F60E613557B986C11D9E,
   0xE1F8981169D98E949B1E87E9CE5528DF,
   0x8CA1890DBFE6426841992D0FB054BB16]

/-- The S-box: row by the high half of the byte, column by its low half. -/
def sbox (x : Byte) : Byte :=
  BitVec.ofNat 8 (sboxRows.getD (x.toNat / 16) 0 >>> (8 * (15 - x.toNat % 16)))

/-- Multiplication by x in the field of FIPS 197. -/
def xtime (x : Byte) : Byte := (x <<< 1) ^^^ (if x.msb then 0x1B else 0)

/-- SubBytes. -/
def subBytes (st : List Byte) : List Byte := st.map sbox

/-- ShiftRows on the sixteen bytes in column order: row `r` moves `r` columns left. -/
def shiftRows (st : List Byte) : List Byte :=
  [0, 5, 10, 15, 4, 9, 14, 3, 8, 13, 2, 7, 12, 1, 6, 11].map (fun i => st.getD i 0)

/-- MixColumns, column by column. -/
def mixColumns : List Byte → List Byte
  | a :: b :: c :: d :: rest =>
    [xtime a ^^^ (xtime b ^^^ b) ^^^ c ^^^ d,
     a ^^^ xtime b ^^^ (xtime c ^^^ c) ^^^ d,
     a ^^^ b ^^^ xtime c ^^^ (xtime d ^^^ d),
     (xtime a ^^^ a) ^^^ b ^^^ c ^^^ xtime d] ++ mixColumns rest
  | short => short

/-- AddRoundKey. -/
def addRoundKey (st k : List Byte) : List Byte := xorBytes st k

/-- The next round key from the one before it and the round constant. -/
def nextRoundKey (rcon : Byte) (k : List Byte) : List Byte :=
  let w0 := k.take 4
  let w1 := (k.drop 4).take 4
  let w2 := (k.drop 8).take 4
  let w3 := k.drop 12
  let t := xorBytes (subBytes (w3.drop 1 ++ w3.take 1)) [rcon, 0, 0, 0]
  let n0 := xorBytes w0 t
  let n1 := xorBytes w1 n0
  let n2 := xorBytes w2 n1
  let n3 := xorBytes w3 n2
  n0 ++ n1 ++ n2 ++ n3

/-- The rounds after the first AddRoundKey, one for each round constant; the last leaves MixColumns out. -/
def aesRounds : List Byte → List Byte → List Byte → List Byte
  | [], _, st => st
  | [rcon], k, st => addRoundKey (shiftRows (subBytes st)) (nextRoundKey rcon k)
  | rcon :: rest, k, st =>
    let k' := nextRoundKey rcon k
    aesRounds rest k' (addRoundKey (mixColumns (shiftRows (subBytes st))) k')

/-- The round constants of AES-128. -/
def rcons : List Byte := [0x01, 0x02, 0x04, 0x08, 0x10, 0x20, 0x40, 0x80, 0x1B, 0x36]

/-- AES-128 on one block: "single-block AES-128 ECB encryption given a 128-bit key and a 128-bit plaintext block" (R16).
Irreducible: the rules hold for any `E`, so proofs do not look inside. -/
@[irreducible] def aes128 (k x : Block) : Block :=
  blockOf (aesRounds rcons (blockBytes k) (addRoundKey (blockBytes x) (blockBytes k)))

/-- The parameters of this hardware: the table of R9, and AES-128 for `E` (R16). -/
def hw : Config where
  E := aes128

end Sys2Proof.Machine
end

