-- ==== Sys2Proof/Syntax.lean ====
section
/-! DEFINITION. The instructions: one constructor for each row of spec/opcode_table.json. The three host commands (R82)
carry the operands of the CMD word (R89: EOS a flag, LEN an unsigned integer); the nine phases of the sequencer (R90)
carry none, because each is selected by the value of PHASE alone. -/

namespace Sys2Proof

/-- The command set (R3, R82) and the phases of the sequencer (R90). -/
inductive Instr where
  /-- INSTANTIATE (R141): `len` seed bytes presented, `eos` when the supplier's stream ended (R83, R84) -/
  | instantiate (eos : Bool) (len : Nat)
  /-- RESEED (R146), the same operands -/
  | reseed (eos : Bool) (len : Nat)
  /-- GENERATE (R150): `len` output bits requested -/
  | generate (len : Nat)
  /-- phase IDLE (R175, R176): wait for and accept a command -/
  | idle
  /-- phase INST_ZERO (R178) -/
  | instZero
  /-- phase GEN_INCR (R179) -/
  | genIncr
  /-- phase GEN_ENC (R180) -/
  | genEnc
  /-- phase UPD_INCR (R181) -/
  | updIncr
  /-- phase UPD_ENC (R182) -/
  | updEnc
  /-- phase UPD_XOR (R183) -/
  | updXor
  /-- phase UPD_COMMIT (R184) -/
  | updCommit
  /-- phase FINISH (R185) -/
  | finish
  deriving DecidableEq, Repr

end Sys2Proof
end

