-- ==== Sys2Proof/WellFormed.lean ====
section
/-! DEFINITION. Which instructions have an encoding. LEN is a field of `W_LEN` = 32 bits (R84); a value that does not fit
has no encoding and is refused (R92). The other operands fit by their types. -/

namespace Sys2Proof

/-- LEN fits its field (R84). -/
def lenFits (len : Nat) : Bool := decide (len < 2 ^ 32)

/-- The instruction has an encoding: its LEN, where it has one, fits the field. -/
def Instr.wf : Instr → Bool
  | .instantiate _ len => lenFits len
  | .reseed _ len => lenFits len
  | .generate len => lenFits len
  | .idle => true
  | .instZero => true
  | .genIncr => true
  | .genEnc => true
  | .updIncr => true
  | .updEnc => true
  | .updXor => true
  | .updCommit => true
  | .finish => true

end Sys2Proof
end

