-- ==== Sys2Proof/Decode.lean ====
section
/-! DEFINITION. Decoding and encoding (30_encoding.md). There are two code spaces that never mix: the 64-bit CMD word
(R81, R93) and the 4-bit value of PHASE (R90). A CMD word that is no command is illegal (R88); the decoder refuses it
under a name that says why, and the acceptance of a command answers it with the status IllegalCommand. -/

namespace Sys2Proof

/-! ### The fields of a CMD word (R81) -/

/-- `OP = w[3:0]`. -/
def cmdOp (w : CmdWord) : BitVec 4 := w.extractLsb' 0 4

/-- `EOS = w[4]`. -/
def cmdEos (w : CmdWord) : Bool := w.getLsbD 4

/-- `RSV = w[31:5]`. -/
def cmdRsv (w : CmdWord) : BitVec 27 := w.extractLsb' 5 27

/-- `LEN = w[63:32]`, never sign-extended, scaled or shifted (R89). -/
def cmdLen (w : CmdWord) : Nat := (w.extractLsb' 32 32).toNat

/-- Why a code is not an instruction. -/
inductive DecodeError where
  /-- `OP` is 0x0 or 0x4 to 0xF (R82, R88) -/
  | reservedOpcode
  /-- a bit of RSV is set (R85) -/
  | reservedBits
  /-- EOS is set in GENERATE (R85) -/
  | eosInGenerate
  /-- the PHASE value is 9 to 15 (R90, R186) -/
  | unusedPhase
  deriving DecidableEq, Repr

/-- The command a CMD word stands for (R82, R85, R88, R93). -/
def decodeCmd (w : CmdWord) : Except DecodeError Instr :=
  if cmdRsv w ≠ 0 then .error .reservedBits
  else if cmdOp w = 1 then .ok (.instantiate (cmdEos w) (cmdLen w))
  else if cmdOp w = 2 then .ok (.reseed (cmdEos w) (cmdLen w))
  else if cmdOp w = 3 then
    if cmdEos w then .error .eosInGenerate else .ok (.generate (cmdLen w))
  else .error .reservedOpcode

/-- The phase a PHASE value stands for (R90). -/
def decodePhase (p : BitVec 4) : Except DecodeError Instr :=
  match p.toNat with
  | 0 => .ok .idle
  | 1 => .ok .instZero
  | 2 => .ok .genIncr
  | 3 => .ok .genEnc
  | 4 => .ok .updIncr
  | 5 => .ok .updEnc
  | 6 => .ok .updXor
  | 7 => .ok .updCommit
  | 8 => .ok .finish
  | _ => .error .unusedPhase

/-- A code of one of the two code spaces. -/
inductive Code where
  /-- a word of the CMD port -/
  | cmd (w : CmdWord)
  /-- a value of the register PHASE -/
  | phase (p : BitVec 4)
  deriving DecidableEq, Repr

/-- The decoder: total, refusing by name. -/
def decode : Code → Except DecodeError Instr
  | .cmd w => decodeCmd w
  | .phase p => decodePhase p

/-! ### The encoder -/

/-- The CMD word with the fields `op`, `eos`, `len` and RSV zero: `(LEN << 32) OR (EOS << 4) OR OP` (R81, R91). -/
def cmdWord (op : BitVec 4) (eos : Bool) (len : Nat) : CmdWord :=
  BitVec.ofNat 32 len ++ 0#27 ++ BitVec.ofBool eos ++ op

/-- The code of an instruction; meant for well-formed ones. -/
def encode : Instr → Code
  | .instantiate eos len => .cmd (cmdWord 1 eos len)
  | .reseed eos len => .cmd (cmdWord 2 eos len)
  | .generate len => .cmd (cmdWord 3 false len)
  | .idle => .phase 0
  | .instZero => .phase 1
  | .genIncr => .phase 2
  | .genEnc => .phase 3
  | .updIncr => .phase 4
  | .updEnc => .phase 5
  | .updXor => .phase 6
  | .updCommit => .phase 7
  | .finish => .phase 8

/-! ### The opcode map as match and mask (R93) -/

/-- One row of R93's table. -/
structure CmdRow where
  pattern : CmdWord
  mask : CmdWord
  deriving DecidableEq, Repr

/-- `(w AND mask) = match`. -/
def CmdRow.selects (r : CmdRow) (w : CmdWord) : Bool := decide (w &&& r.mask = r.pattern)

/-- The row of INSTANTIATE. -/
def instantiateRow : CmdRow := ⟨0x0000000000000001, 0x00000000FFFFFFEF⟩

/-- The row of RESEED. -/
def reseedRow : CmdRow := ⟨0x0000000000000002, 0x00000000FFFFFFEF⟩

/-- The row of GENERATE. -/
def generateRow : CmdRow := ⟨0x0000000000000003, 0x00000000FFFFFFFF⟩

/-- An instruction's code is the one the opcode table gives its row: the row's pattern under its mask for a command
(R93), the value of R90 for a phase. -/
def Instr.codeInTable (i : Instr) (c : Code) : Bool :=
  match i, c with
  | .instantiate _ _, .cmd w => instantiateRow.selects w
  | .reseed _ _, .cmd w => reseedRow.selects w
  | .generate _, .cmd w => generateRow.selects w
  | .idle, .phase p => decide (p = 0)
  | .instZero, .phase p => decide (p = 1)
  | .genIncr, .phase p => decide (p = 2)
  | .genEnc, .phase p => decide (p = 3)
  | .updIncr, .phase p => decide (p = 4)
  | .updEnc, .phase p => decide (p = 5)
  | .updXor, .phase p => decide (p = 6)
  | .updCommit, .phase p => decide (p = 7)
  | .finish, .phase p => decide (p = 8)
  | _, _ => false

/-! ### The host's view of the table -/

/-- A row of the PHASE format is 4 bits wide, one byte at most; every CMD row is 64 bits wide. -/
def isPhaseWidth (nbits : Nat) : Bool := decide (nbits ≤ 8)

/-- The instruction the decoder reads from a word of an opcode-table row of `nbits` bits. -/
def decodeTableWord (nbits w : Nat) : Option Instr :=
  if isPhaseWidth nbits then
    if w < 2 ^ 4 then (decodePhase (BitVec.ofNat 4 w)).toOption else none
  else
    if w < 2 ^ 64 then (decodeCmd (BitVec.ofNat 64 w)).toOption else none

end Sys2Proof
end

