-- ==== Sys2Proof/Machine/State.lean ====
section
/-! DEFINITION. The state of one instance (R20): the registers of 10_state.md; what stands on its ports (R51), inputs
still to come and outputs so far; and two fields of the model's own (the level of description that runs, and the number
of resets taken, which selects the free value of CK). There is no memory (R50) and no program counter (R26). -/

namespace Sys2Proof.Machine

/-- The values of PHASE (R26, R90): the nine that some rule writes; 9 to 15 do not exist here (R186). -/
inductive Phase where
  | idle | instZero | genIncr | genEnc | updIncr | updEnc | updXor | updCommit | finish
  deriving DecidableEq, Repr

/-- The error kinds (R200): the source's four, then the spec's two. -/
inductive ErrorKind where
  /-- a seed that is not 32 bytes long (R201) -/
  | invalidInputLength
  /-- the supplier's stream ended before 32 bytes (R202) -/
  | endOfStream
  /-- GENERATE with the reseed budget spent (R204) -/
  | reseedRequired
  /-- only of `from_integer`, never of a command (R106, R212) -/
  | rangeError
  /-- RESEED or GENERATE before INSTANTIATE (R203) -/
  | notInstantiated
  /-- a CMD word that is no command (R213) -/
  | illegalCommand
  deriving DecidableEq, Repr

/-- The two levels of description (R12): a command as one step, or one phase a step. -/
inductive Level where
  | command
  | fsm
  deriving DecidableEq, Repr

/-- One offer of the host: a CMD word and the SEED word presented with it (R52, R53). -/
structure Offer where
  cmd : CmdWord
  seedw : SeedWord
  deriving DecidableEq, Repr

/-- What the host observes (R18). -/
inductive HostEvent where
  /-- a command is accepted -/
  | accepted
  /-- one byte on OUT -/
  | out (b : Byte)
  /-- the RSP word of a command -/
  | rsp (w : RspWord)
  deriving DecidableEq, Repr

/-- The transactions on the CIPH port (R56). -/
inductive CiphEvent where
  /-- `CipherRekey(k)` (R57) -/
  | rekey (k : Block)
  /-- `CipherEncrypt(x)`, answered with the block `y` (R58) -/
  | encrypt (x y : Block)
  deriving DecidableEq, Repr

/-- Why the machine stops with a fault. -/
inductive Fault where
  /-- UPD_ENC with TLEN neither 0 nor 16. R182 states the phase under the precondition "TLEN is 0 or 16" and TEMP has no
  byte beyond its 32nd. Raised by `updEnc` only. Safe: no run from reset reaches such a state (R187 b). -/
  | updEncTlen
  deriving DecidableEq, Repr

/-- Why an instruction has no meaning. -/
inductive Refusal where
  /-- The instruction has no meaning in this model yet. Raised by `exec` only. Safe. -/
  | notModelled (mnemonic : String)
  deriving DecidableEq, Repr

/-- The state of one instance (R20), its ports (R51) and the model's own fields. -/
structure State where
  /-- KEY, the DRBG key (R21) -/
  key : Block
  /-- V, the working vector, a FixedWidthCounter of 16 bytes (R22) -/
  v : Block
  /-- RC, the reseed counter (R23) -/
  rc : BitVec 32
  /-- CK, the key the cipher was last given (R30) -/
  ck : Block
  /-- PHASE (R26) -/
  phase : Phase
  /-- OPL, the opcode of the command in progress (R27) -/
  opl : BitVec 4
  /-- BITSREM, output bits still to be produced (R31) -/
  bitsrem : BitVec 32
  /-- SEEDL, the seed material of the update in progress (R28) -/
  seedl : SeedWord
  /-- TEMP, the update's buffer (R29) -/
  temp : SeedWord
  /-- TLEN, the number of valid bytes in TEMP (R29) -/
  tlen : BitVec 6
  /-- the CMD port: the word the host offers now, if any (R52) -/
  cmd : Option CmdWord
  /-- the SEED port: the word presented now (R53) -/
  seedw : SeedWord
  /-- input: the offers the host makes after the present one, in order -/
  offers : List Offer
  /-- input: whether reset is asserted at each of the coming step boundaries (R230, R231); past its end it is not -/
  resetIn : List Bool
  /-- output: what the host has observed, oldest first (R18) -/
  obs : List HostEvent
  /-- the transactions made on the CIPH port, oldest first (R56) -/
  ciph : List CiphEvent
  /-- MODEL'S OWN: which level of description runs (R12) -/
  level : Level
  /-- MODEL'S OWN: how many resets were taken; it selects the free value of CK (R34) -/
  resets : Nat
  deriving DecidableEq, Repr

/-- The machine right after its first reset (R34, R230), nothing offered and nothing observed yet. -/
def State.reset : State where
  key := 0
  v := 0
  rc := 0
  ck := Config.ckAfterReset 0
  phase := .idle
  opl := 0
  bitsrem := 0
  seedl := 0
  temp := 0
  tlen := 0
  cmd := none
  seedw := 0
  offers := []
  resetIn := []
  obs := []
  ciph := []
  level := .command
  resets := 0

end Sys2Proof.Machine
end

