-- ==== Sys2Proof/Machine/Ops.lean ====
section
/-! DEFINITION. The named operations: the primitives of R17 over registers and ports, raising an error as one operation
(R208), and the reset event (R230, R231). -/

namespace Sys2Proof.Machine

/-! ### Codes -/

/-- The code of an error kind (R87, R200). -/
def ErrorKind.code : ErrorKind → BitVec 4
  | .invalidInputLength => 1
  | .endOfStream => 2
  | .reseedRequired => 3
  | .rangeError => 4
  | .notInstantiated => 5
  | .illegalCommand => 6

/-- STATUS of an outcome: 0 for success (R87). -/
def statusCode : Option ErrorKind → BitVec 4
  | none => 0
  | some x => x.code

/-- The RSP word: STATUS in bits 3:0, zeros above (R86). -/
def rspWord (outcome : Option ErrorKind) : RspWord := (statusCode outcome).zeroExtend 32

/-- The micro-operation a PHASE value selects (R90). -/
def Phase.instr : Phase → Instr
  | .idle => .idle
  | .instZero => .instZero
  | .genIncr => .genIncr
  | .genEnc => .genEnc
  | .updIncr => .updIncr
  | .updEnc => .updEnc
  | .updXor => .updXor
  | .updCommit => .updCommit
  | .finish => .finish

/-- The PHASE value that selects a micro-operation; a host command is selected by no PHASE value (R90). -/
def phaseOf : Instr → Option Phase
  | .instantiate _ _ => none
  | .reseed _ _ => none
  | .generate _ => none
  | .idle => some .idle
  | .instZero => some .instZero
  | .genIncr => some .genIncr
  | .genEnc => some .genEnc
  | .updIncr => some .updIncr
  | .updEnc => some .updEnc
  | .updXor => some .updXor
  | .updCommit => some .updCommit
  | .finish => some .finish

/-! ### Registers -/

/-- `PHASE <- p` (R17). -/
def State.goto (s : State) (p : Phase) : State := { s with phase := p }

/-- `KEY <- k`. -/
def State.setKey (s : State) (k : Block) : State := { s with key := k }

/-- `V <- x`. -/
def State.setV (s : State) (x : Block) : State := { s with v := x }

/-- `RC <- n`. -/
def State.setRc (s : State) (n : BitVec 32) : State := { s with rc := n }

/-- `V <- incr(V)`, in register terms `(V + 1) mod 2^128` (R101, R102). -/
def State.incrV (s : State) : State := s.setV (s.v + 1)

/-- `BITSREM <- n`. -/
def State.setBitsrem (s : State) (n : BitVec 32) : State := { s with bitsrem := n }

/-- TEMP and TLEN written together. -/
def State.setTemp (s : State) (t : SeedWord) (n : BitVec 6) : State := { s with temp := t, tlen := n }

/-- `TEMP <- zero(32); TLEN <- 0; SEEDL <- zero(32)`: no block and no seed is kept beyond the update (R130, R184). -/
def State.scrubUpdate (s : State) : State := { s with temp := 0, tlen := 0, seedl := 0 }

/-- `OPL <- 0; BITSREM <- 0` (R185). -/
def State.scrubCommand (s : State) : State := { s with opl := 0, bitsrem := 0 }

/-! ### Ports -/

/-- `MemRead(SEED, k)`: the first `k` bytes of the word on the SEED port; no side effect (R17, R53). -/
def State.memReadSeed (s : State) (k : Nat) : List Byte := (seedBytes s.seedw).take k

/-- `MemWrite(OUT, k, B)`: append the bytes of `B` to the OUT stream, in order (R17, R55). -/
def State.memWriteOut (s : State) (B : List Byte) : State := { s with obs := s.obs ++ B.map .out }

/-- `MemWrite(RSP, 4, w)` (R17, R54). -/
def State.memWriteRsp (s : State) (w : RspWord) : State := { s with obs := s.obs ++ [.rsp w] }

/-- `CipherRekey(k)`: `CK <- k` (R57). -/
def State.cipherRekey (s : State) (k : Block) : State := { s with ck := k, ciph := s.ciph ++ [.rekey k] }

/-- KEY, V and CK written together: the update's steps 5 and 6 (R125, R126, R184), and with zeros the clearing step of
INSTANTIATE (R141, R178). A write of KEY is always followed by its rekey (R66). -/
def State.commitKeyV (s : State) (k x : Block) : State := ((s.setKey k).setV x).cipherRekey k

/-- The answer of `CipherEncrypt(x)`: `E(CK, x)` (R58). -/
def State.cipherAnswer (cfg : Config) (s : State) (x : Block) : Block := cfg.E s.ck x

/-- The state after `CipherEncrypt(x)`: the transaction stands on the port, nothing else changes (R58). -/
def State.cipherEncrypt (cfg : Config) (s : State) (x : Block) : State :=
  { s with ciph := s.ciph ++ [.encrypt x (s.cipherAnswer cfg x)] }

/-- The host's next offer, if it makes one, comes to stand on the CMD and SEED ports (R52). -/
def State.nextOffer (s : State) : State :=
  match s.offers with
  | [] => { s with cmd := none }
  | o :: rest => { s with cmd := some o.cmd, seedw := o.seedw, offers := rest }

/-- Acceptance, the first event of a command (R52): the offer leaves the ports and the host sees it taken. -/
def State.acceptOffer (s : State) : State := { s.nextOffer with obs := s.obs ++ [.accepted] }

/-! ### Errors: the hardware's exceptions -/

/-- `raise X` (R17, R176, R208): deliver the RSP word of the error and stay in IDLE. No register is written, nothing goes
to OUT, and no CIPH transaction is made. There is no return operation, "because there is nothing to return from": the
sequencer is at once idle in the state it had (R209). -/
def State.raiseError (s : State) (x : ErrorKind) : State := (s.memWriteRsp (rspWord (some x))).goto .idle

/-! ### Reset -/

/-- The reset event (R230, R231): every register takes the value of R34, CK a value nothing is known of; the offer on the
ports, the OUT bytes written and the RSP words delivered stay, and no RSP word is sent. -/
def State.takeReset (s : State) : State :=
  { s with
    key := 0, v := 0, rc := 0, ck := Config.ckAfterReset (s.resets + 1), phase := .idle, opl := 0, bitsrem := 0,
    seedl := 0, temp := 0, tlen := 0, resets := s.resets + 1 }

/-- Whether the host asserts reset at this step boundary. -/
def State.resetAsserted (s : State) : Bool := s.resetIn.headD false

/-- Pass one step boundary: the reset input is sampled once. -/
def State.tick (s : State) : State := { s with resetIn := s.resetIn.tail }

end Sys2Proof.Machine
end

