-- ==== Sys2Proof/Machine/Operands.lean ====
section
/-! DEFINITION. The operands of the commands and the quantities derived from them (R89), and the truncation of output to
an exact number of bits (R60, R153, R180). -/

namespace Sys2Proof.Machine

/-- `m = ceil(L / 128)`: the number of cipher blocks produced for output (R89). -/
def outBlocks (cfg : Config) (L : Nat) : Nat := (L + cfg.outlenBits - 1) / cfg.outlenBits

/-- `nbytes = ceil(L / 8)`: the number of bytes written to OUT (R89). -/
def outBytes (L : Nat) : Nat := (L + 7) / 8

/-- `mask`: the bits kept in the last output byte, its `L mod 8` most significant ones, or all when `L mod 8 = 0`
(R60, R89). -/
def lastMask (L : Nat) : Byte :=
  if L % 8 = 0 then 0xFF else BitVec.ofNat 8 ((0xFF <<< (8 - L % 8)) &&& 0xFF)

/-- A byte string with its last byte ANDed with a mask. -/
def maskLast (mask : Byte) : List Byte → List Byte
  | [] => []
  | [b] => [b &&& mask]
  | b :: b' :: rest => b :: maskLast mask (b' :: rest)

/-- The leftmost `L` bits of a byte string, in `ceil(L / 8)` bytes, the bits beyond the `L`-th zero (R60, R153). -/
def leftmostBits (L : Nat) (B : List Byte) : List Byte := maskLast (lastMask L) (B.take (outBytes L))

/-- Why the seed an INSTANTIATE or RESEED presents is refused, if it is (R201, R202). -/
def seedError (cfg : Config) (eos : Bool) (len : Nat) : Option ErrorKind :=
  if eos = true ∧ len < cfg.seedlenBytes then some .endOfStream
  else if len ≠ cfg.seedlenBytes then some .invalidInputLength
  else none

end Sys2Proof.Machine
end

