-- ==== Sys2Proof/Machine/Flags.lean ====
section
/-! DEFINITION. The hardware has no flags register (R25). Its status conditions are functions of RC and PHASE: the
lifecycle state (R25, R170), BUSY (R32), and the status of a command as a function of the CMD word and RC (R205). -/

namespace Sys2Proof.Machine

/-- The lifecycle states (R25, R170). -/
inductive Lifecycle where
  | uninstantiated | ready | exhausted
  deriving DecidableEq, Repr

/-- `instantiated := (RC != 0)` (R25). -/
def State.instantiated (s : State) : Bool := decide (s.rc ≠ 0)

/-- `exhausted := (RC > reseed_interval)` (R25). -/
def State.exhausted (cfg : Config) (s : State) : Bool := decide (cfg.reseedInterval < s.rc.toNat)

/-- The lifecycle state, a function of RC alone (R25). -/
def State.lifecycle (cfg : Config) (s : State) : Lifecycle :=
  if !s.instantiated then .uninstantiated else if s.exhausted cfg then .exhausted else .ready

/-- `BUSY := (PHASE != IDLE)` (R32). -/
def State.busy (s : State) : Bool := decide (s.phase ≠ .idle)

/-- The status of a command word, judged on the word and RC alone (R205), in the priority order of R206; `none` is OK. -/
def commandStatus (cfg : Config) (w : CmdWord) (rc : BitVec 32) : Option ErrorKind :=
  let op := cmdOp w
  let eos := cmdEos w
  let len := cmdLen w
  if (op ≠ 1 ∧ op ≠ 2 ∧ op ≠ 3) ∨ cmdRsv w ≠ 0 ∨ (op = 3 ∧ eos = true) then some .illegalCommand
  else if (op = 2 ∨ op = 3) ∧ rc = 0 then some .notInstantiated
  else if op = 3 ∧ cfg.reseedInterval < rc.toNat then some .reseedRequired
  else if (op = 1 ∨ op = 2) ∧ eos = true ∧ len < cfg.seedlenBytes then some .endOfStream
  else if (op = 1 ∨ op = 2) ∧ len ≠ cfg.seedlenBytes then some .invalidInputLength
  else none

end Sys2Proof.Machine
end

