-- ==== Sys2Proof/Machine/Update.lean ====
section
/-! DEFINITION. The update function at the command level (41_update.md), step by step, and the loop it shares with
GENERATE: "increment `state.vector`; append `BlockCipher.encrypt(...)` to `temp`" (R122, R150). -/

namespace Sys2Proof.Machine

/-- What `n` passes of the loop append to `temp` (R122, R152): each pass increments V, then encrypts it under CK. -/
def encryptPasses (cfg : Config) : Nat → List Byte → State → List Byte × State
  | 0, temp, s => (temp, s)
  | n + 1, temp, s =>
    encryptPasses cfg n (temp ++ blockBytes (s.incrV.cipherAnswer cfg s.incrV.v))
      (s.incrV.cipherEncrypt cfg s.incrV.v)

/-- The six steps of the update for seed material of the right length (R121 to R126). The loop test "while
`len(temp) < seedlen_bytes`" lets `seedlen_bytes / outlen_bytes` passes through (R10, R122). -/
def updateSteps (cfg : Config) (seed : List Byte) (s : State) : State :=
  let filled := encryptPasses cfg (cfg.seedlenBytes / cfg.outlenBytes) [] s
  let temp := xorBytes (filled.1.take cfg.seedlenBytes) seed
  filled.2.commitKeyV (blockOf (temp.take cfg.keylenBytes)) (blockOf (temp.drop cfg.keylenBytes))

/-- `update(seed_material)` with its contract: any other length fails with InvalidInputLength and changes nothing
(R120). Inside the hardware the contract always holds. -/
def update (cfg : Config) (seed : List Byte) (s : State) : Except ErrorKind State :=
  if seed.length ≠ cfg.seedlenBytes then .error .invalidInputLength else .ok (updateSteps cfg seed s)

end Sys2Proof.Machine
end

