-- ==== Sys2Proof/Machine/Commands.lean ====
section
/-! DEFINITION. The three host commands at the command level (42_drbg_ops.md): one atomic step each, from IDLE to IDLE
(R12, R63). The checks stand before every effect (R140). While the sequencer is busy an offered command is held: nothing
changes, and the offer stays on the ports (R52). Each command is given for any configuration, then for this hardware. -/

namespace Sys2Proof.Machine

/-- A command with its checks made (R140): held while busy, refused with an error, or carried out. -/
def runCommand (s : State) (check : Option ErrorKind) (effect : State → State) : Host.Outcome State Fault Refusal :=
  if s.busy then .next s
  else match check with
    | some x => .next (s.acceptOffer.raiseError x)
    | none => .next ((effect s.acceptOffer).memWriteRsp (rspWord none))

/-! ### INSTANTIATE (R141) -/

/-- The checks of INSTANTIATE, in order; it reads no prior state. -/
def instantiateCheck (cfg : Config) (eos : Bool) (len : Nat) : Option ErrorKind := seedError cfg eos len

/-- The effect of INSTANTIATE with seed `seed`: KEY and V zeroed and the cipher re-keyed, the update, `RC <- 1`. -/
def instantiateEffect (cfg : Config) (seed : List Byte) (s : State) : State :=
  (updateSteps cfg seed (s.commitKeyV 0 0)).setRc 1

/-- INSTANTIATE (R141) for any configuration. -/
def instantiate (cfg : Config) (eos : Bool) (len : Nat) (s : State) : Host.Outcome State Fault Refusal :=
  runCommand s (instantiateCheck cfg eos len) (instantiateEffect cfg (s.memReadSeed cfg.seedlenBytes))

/-- INSTANTIATE of this hardware. -/
def execInstantiate (eos : Bool) (len : Nat) (s : State) : Host.Outcome State Fault Refusal := instantiate hw eos len s

/-! ### RESEED (R146) -/

/-- The checks of RESEED, in order. -/
def reseedCheck (cfg : Config) (eos : Bool) (len : Nat) (s : State) : Option ErrorKind :=
  if s.rc = 0 then some .notInstantiated else seedError cfg eos len

/-- The effect of RESEED with seed `seed`: the update, `RC <- 1`. -/
def reseedEffect (cfg : Config) (seed : List Byte) (s : State) : State := (updateSteps cfg seed s).setRc 1

/-- RESEED (R146) for any configuration. -/
def reseed (cfg : Config) (eos : Bool) (len : Nat) (s : State) : Host.Outcome State Fault Refusal :=
  runCommand s (reseedCheck cfg eos len s) (reseedEffect cfg (s.memReadSeed cfg.seedlenBytes))

/-- RESEED of this hardware. -/
def execReseed (eos : Bool) (len : Nat) (s : State) : Host.Outcome State Fault Refusal := reseed hw eos len s

/-! ### GENERATE (R150) -/

/-- The checks of GENERATE, in order, before any output (R151). -/
def generateCheck (cfg : Config) (s : State) : Option ErrorKind :=
  if s.rc = 0 then some .notInstantiated
  else if cfg.reseedInterval < s.rc.toNat then some .reseedRequired
  else none

/-- The effect of GENERATE of `len` bits: the output blocks, truncated, to OUT; the update on zeroes; `RC <- RC + 1`
(R150, R154). -/
def generateEffect (cfg : Config) (len : Nat) (s : State) : State :=
  let made := encryptPasses cfg (outBlocks cfg len) [] s
  let s' := made.2.memWriteOut (leftmostBits len made.1)
  (updateSteps cfg (zeroBytes cfg.seedlenBytes) s').setRc (s.rc + 1)

/-- GENERATE (R150) for any configuration. -/
def generate (cfg : Config) (len : Nat) (s : State) : Host.Outcome State Fault Refusal :=
  runCommand s (generateCheck cfg s) (generateEffect cfg len)

/-- GENERATE of this hardware. -/
def execGenerate (len : Nat) (s : State) : Host.Outcome State Fault Refusal := generate hw len s

end Sys2Proof.Machine
end

