-- ==== Sys2Proof/Machine/Phases.lean ====
section
/-! DEFINITION. The nine phases of the sequencer (43_sequencer_fsm.md): one step each (R173). The phases that use the
configuration are given for any one, then for this hardware. -/

namespace Sys2Proof.Machine

/-! ### IDLE (R175, R176) -/

/-- The phase an accepted command starts with (R175). -/
def firstPhase (op : BitVec 4) (len : Nat) : Phase :=
  if op = 1 then .instZero else if op = 3 ∧ 0 < len then .genIncr else .updIncr

/-- The latches at acceptance of a word that passes its checks, with the SEED word presented (R175). -/
def State.latchCommand (s : State) (w : CmdWord) (seedw : SeedWord) : State :=
  { s with
    opl := cmdOp w
    temp := 0
    tlen := 0
    bitsrem := if cmdOp w = 3 then BitVec.ofNat 32 (cmdLen w) else 0
    seedl := if cmdOp w = 3 then 0 else seedw
    phase := firstPhase (cmdOp w) (cmdLen w) }

/-- The acceptance of the offered word (R175), or its failure (R176). -/
def acceptCommand (cfg : Config) (w : CmdWord) (s : State) : State :=
  match commandStatus cfg w s.rc with
  | some x => s.acceptOffer.raiseError x
  | none => s.acceptOffer.latchCommand w s.seedw

/-- IDLE: with no command offered no register changes, and the host may come with its next offer; an offered one is
accepted, but only while PHASE is IDLE (R52, R175). -/
def idle (cfg : Config) (s : State) : Host.Outcome State Fault Refusal :=
  if s.busy then .next s
  else match s.cmd with
    | none => .next s.nextOffer
    | some w => .next (acceptCommand cfg w s)

/-- IDLE of this hardware. -/
def execIdle (s : State) : Host.Outcome State Fault Refusal := idle hw s

/-! ### INST_ZERO (R178) -/

/-- `KEY <- zero(16); V <- zero(16); CipherRekey(zero(16)); PHASE <- UPD_INCR`. -/
def execInstZero (s : State) : Host.Outcome State Fault Refusal :=
  .next ((s.commitKeyV 0 0).goto .updIncr)

/-! ### GEN_INCR (R179) -/

/-- `V <- incr(V); PHASE <- GEN_ENC`. -/
def execGenIncr (s : State) : Host.Outcome State Fault Refusal := .next (s.incrV.goto .genEnc)

/-! ### GEN_ENC (R180) -/

/-- The bits a pass of the output loop produces, and the bits left after it: a whole block while 128 remain. -/
def bitsAfterBlock (cfg : Config) (bits : BitVec 32) : BitVec 32 :=
  if cfg.outlenBits ≤ bits.toNat then bits - BitVec.ofNat 32 cfg.outlenBits else 0

/-- The bytes of a block that go to OUT when `bits` bits remain (R180). -/
def blockOutput (cfg : Config) (bits : BitVec 32) (blk : Block) : List Byte :=
  if cfg.outlenBits ≤ bits.toNat then blockBytes blk else leftmostBits bits.toNat (blockBytes blk)

/-- GEN_ENC: encrypt V, write output bytes, count BITSREM down (R180). -/
def genEnc (cfg : Config) (s : State) : Host.Outcome State Fault Refusal :=
  let left := bitsAfterBlock cfg s.bitsrem
  let s' := (s.cipherEncrypt cfg s.v).memWriteOut (blockOutput cfg s.bitsrem (s.cipherAnswer cfg s.v))
  .next ((s'.setBitsrem left).goto (if left = 0 then .updIncr else .genIncr))

/-- GEN_ENC of this hardware. -/
def execGenEnc (s : State) : Host.Outcome State Fault Refusal := genEnc hw s

/-! ### UPD_INCR (R181) -/

/-- `V <- incr(V); PHASE <- UPD_ENC`. -/
def execUpdIncr (s : State) : Host.Outcome State Fault Refusal := .next (s.incrV.goto .updEnc)

/-! ### UPD_ENC (R182) -/

/-- `TEMP[255:128]`, the first 16 bytes of `temp` (R59, R182). -/
def tempHigh (t : SeedWord) : Block := t.extractLsb' 128 128

/-- `TEMP[127:0]`, the last 16 bytes of `temp` (R59, R182). -/
def tempLow (t : SeedWord) : Block := t.extractLsb' 0 128

/-- `TEMP_bytes[TLEN .. TLEN+16) <- blk` for the two values TLEN may have (R182). -/
def appendBlock (t : SeedWord) (tlen : BitVec 6) (blk : Block) : SeedWord :=
  if tlen = 0 then blk ++ tempLow t else tempHigh t ++ blk

/-- UPD_ENC: encrypt V and append the block to TEMP (R182). Outside its precondition the spec gives it no effect. -/
def updEnc (cfg : Config) (s : State) : Host.Outcome State Fault Refusal :=
  if s.tlen = 0 ∨ s.tlen = 16 then
    let tlen' := s.tlen + 16
    let s' := (s.cipherEncrypt cfg s.v).setTemp (appendBlock s.temp s.tlen (s.cipherAnswer cfg s.v)) tlen'
    .next (s'.goto (if tlen'.toNat < cfg.seedlenBytes then .updIncr else .updXor))
  else .fault .updEncTlen

/-- UPD_ENC of this hardware. -/
def execUpdEnc (s : State) : Host.Outcome State Fault Refusal := updEnc hw s

/-! ### UPD_XOR (R183) -/

/-- `TEMP <- TEMP xor SEEDL; PHASE <- UPD_COMMIT`. -/
def execUpdXor (s : State) : Host.Outcome State Fault Refusal :=
  .next ((s.setTemp (s.temp ^^^ s.seedl) s.tlen).goto .updCommit)

/-! ### UPD_COMMIT (R184) -/

/-- Split TEMP into KEY and V, re-key the cipher, clear the latches that held the seed and the blocks. -/
def execUpdCommit (s : State) : Host.Outcome State Fault Refusal :=
  .next ((s.commitKeyV (tempHigh s.temp) (tempLow s.temp)).scrubUpdate.goto .finish)

/-! ### FINISH (R185) -/

/-- RC written, the RSP word OK delivered, OPL and BITSREM cleared, back to IDLE. -/
def execFinish (s : State) : Host.Outcome State Fault Refusal :=
  let s' := (s.setRc (if s.opl = 3 then s.rc + 1 else 1)).memWriteRsp (rspWord none)
  .next (s'.scrubCommand.goto .idle)

end Sys2Proof.Machine
end

