-- ==== Sys2Proof/Machine/Dispatch.lean ====
section
/-! DEFINITION. The dispatch: one arm for each constructor of Instr, one direct call of its meaning. -/

namespace Sys2Proof.Machine

def exec (i : Instr) (s : State) : Host.Outcome State Fault Refusal :=
  match i with
  | .instantiate eos len => Sys2Proof.Machine.execInstantiate eos len s
  | .reseed eos len => Sys2Proof.Machine.execReseed eos len s
  | .generate len => Sys2Proof.Machine.execGenerate len s
  | .idle => Sys2Proof.Machine.execIdle s
  | .instZero => Sys2Proof.Machine.execInstZero s
  | .genIncr => Sys2Proof.Machine.execGenIncr s
  | .genEnc => Sys2Proof.Machine.execGenEnc s
  | .updIncr => Sys2Proof.Machine.execUpdIncr s
  | .updEnc => Sys2Proof.Machine.execUpdEnc s
  | .updXor => Sys2Proof.Machine.execUpdXor s
  | .updCommit => Sys2Proof.Machine.execUpdCommit s
  | .finish => Sys2Proof.Machine.execFinish s

end Sys2Proof.Machine
end

