-- ==== Sys2Proof/Machine/Fetch.lean ====
section
/-! DEFINITION. What the sequencer runs next. There is no program counter and no stored program (R26): PHASE selects the
micro-operation (R90), and in IDLE, at the command level, the word on the CMD port selects the command (R12). -/

namespace Sys2Proof.Machine

/-- The instruction an idle sequencer runs at the command level: the command the offered word stands for; with no offer,
or with an illegal word, the acceptance of IDLE, which waits or answers IllegalCommand (R88, R175). -/
def offeredInstr (cmd : Option CmdWord) : Instr :=
  match cmd with
  | none => .idle
  | some w =>
    match decodeCmd w with
    | .ok i => i
    | .error _ => .idle

/-- The instruction of the next step. -/
def fetch (s : State) : Instr :=
  match s.phase, s.level with
  | .idle, .command => offeredInstr s.cmd
  | p, _ => p.instr

/-- Place a PHASE code for the next step: the phase machine runs and PHASE holds the code. A code that selects no phase
cannot stand in PHASE, and leaves it as it is. -/
def State.placePhase (s : State) (p : BitVec 4) : State :=
  match (decodePhase p).toOption.bind phaseOf with
  | some ph => { s with phase := ph, level := .fsm, resetIn := false :: s.resetIn.tail }
  | none => { s with level := .fsm, resetIn := false :: s.resetIn.tail }

/-- Place a CMD word for the next step: the sequencer is idle at the command level and the word stands on the CMD port. -/
def State.placeCmd (s : State) (w : CmdWord) : State :=
  { s with phase := .idle, level := .command, cmd := some w, resetIn := false :: s.resetIn.tail }

end Sys2Proof.Machine
end

