-- ==== Sys2Proof/Machine/Step.lean ====
section
/-! DEFINITION. One step: a reset that is asserted at the step boundary is taken (R219, R231), and nothing else happens;
otherwise the instruction that is next runs. -/

namespace Sys2Proof.Machine

/-- One step of the machine. -/
def step (s : State) : Host.Outcome State Fault Refusal :=
  if s.resetAsserted then .next s.tick.takeReset else exec (fetch s) s.tick

/-- Place an opcode-table word of `nbits` bits where the next step finds its instruction: a phase code in PHASE, a CMD
word on the CMD port. No reset is asserted at the next step boundary. -/
def State.withFetchWord (s : State) (nbits w : Nat) : State :=
  if isPhaseWidth nbits then s.placePhase (BitVec.ofNat 4 w) else s.placeCmd (BitVec.ofNat 64 w)

end Sys2Proof.Machine
end

