-- ==== Sys2Proof/Machine/Assembler.lean ====
section
/-! DEFINITION. The assembler (R91, R92): one line of the spec's command notation to the offer it stands for. The lines
are given as data; the text layout (hex digits, comments) is notation only. -/

namespace Sys2Proof.Machine

/-- A line of the notation: the three commands (R91), then the two pseudo-instructions (R92). -/
inductive AsmLine where
  | instantiate (seed : List Byte) (eos : Bool)
  | reseed (seed : List Byte) (eos : Bool)
  | generate (bits : Nat)
  | generateBytes (k : Nat)
  | generateBlocks (k : Nat)
  deriving DecidableEq, Repr

/-- The plain line a pseudo-instruction is rewritten to (R92). -/
def AsmLine.expand : AsmLine → AsmLine
  | .generateBytes k => .generate (8 * k)
  | .generateBlocks k => .generate (128 * k)
  | line => line

/-- SEEDW carries the first 32 bytes of the seed, left-aligned, and zeros in the rest (R53, R91). -/
def seedwOf (seed : List Byte) : SeedWord :=
  BitVec.ofNat 256 (beInt (seed.take 32 ++ zeroBytes (32 - seed.length)))

/-- The instruction a plain line names, with its operands (R91). -/
def AsmLine.instr : AsmLine → Instr
  | .instantiate seed eos => .instantiate eos seed.length
  | .reseed seed eos => .reseed eos seed.length
  | .generate bits => .generate bits
  | .generateBytes k => .generate (8 * k)
  | .generateBlocks k => .generate (128 * k)

/-- The seed a line presents; GENERATE presents none. -/
def AsmLine.seed : AsmLine → List Byte
  | .instantiate seed _ => seed
  | .reseed seed _ => seed
  | .generate _ => []
  | .generateBytes _ => []
  | .generateBlocks _ => []

/-- Assemble a line; one whose LEN does not fit has no encoding and is refused (R92). -/
def assemble (line : AsmLine) : Option Offer :=
  match line.expand.instr.wf, encode line.expand.instr with
  | true, .cmd w => some { cmd := w, seedw := seedwOf line.expand.seed }
  | _, _ => none

end Sys2Proof.Machine
end

