-- ==== Sys2Proof/Machine/Counter.lean ====
section
/-! DEFINITION. The FixedWidthCounter (40_counter.md) as a component on its own: a byte string of any length `n`, read
big-endian (R100). The register V is the one counter the hardware has, with `n` = 16. -/

namespace Sys2Proof.Machine

/-- The carry of `incr`, from the least significant byte on: the bytes are given last byte first (R101). -/
def carryFromLast : List Byte → List Byte
  | [] => []
  | b :: rest => if b + 1 ≠ 0 then (b + 1) :: rest else (b + 1) :: carryFromLast rest

/-- `incr(B)`: add 1 in place, "propagating a carry from the least-significant byte leftward, stopping at the first byte
that does not wrap from 0xFF to 0x00"; the carry out of byte 0 is dropped (R101). -/
def counterIncr (B : List Byte) : List Byte := (carryFromLast B.reverse).reverse

/-- `from_integer(value, width)`: fails with RangeError when the value does not fit (R104). -/
def fromInteger (value width : Nat) : Except ErrorKind (List Byte) :=
  if 2 ^ (8 * width) ≤ value then .error .rangeError else .ok (beBytes value width)

/-- `as_bytes(B)` (R105). -/
def asBytes (B : List Byte) : List Byte := B

/-- `as_integer(B)` (R105). -/
def asInteger (B : List Byte) : Nat := beInt B

end Sys2Proof.Machine
end

