-- ==== Sys2Proof/Safety.lean ====
section
/-! DEFINITION. The terms claims are made in: what the host can read off the observations (R18), runs of the machine, the
closed forms of the output blocks (R152, R155), and the invariant of the sequencer (R24, R66, R187). -/

namespace Sys2Proof.Machine

/-! ### Observations -/

/-- The byte an event puts on OUT, if it does. -/
def HostEvent.outByte : HostEvent → Option Byte
  | .accepted => none
  | .out b => some b
  | .rsp _ => none

/-- The word an event delivers on RSP, if it does. -/
def HostEvent.rspWord : HostEvent → Option RspWord
  | .accepted => none
  | .out _ => none
  | .rsp w => some w

/-- Whether a CIPH transaction is an encryption; otherwise it is a rekey (R56). -/
def CiphEvent.isEncrypt : CiphEvent → Bool
  | .rekey _ => false
  | .encrypt _ _ => true

/-- The OUT byte stream so far (R55). -/
def State.outStream (s : State) : List Byte := s.obs.filterMap HostEvent.outByte

/-- The RSP words so far (R54). -/
def State.rspWords (s : State) : List RspWord := s.obs.filterMap HostEvent.rspWord

/-- The events of one command as the host sees them: acceptance, its OUT bytes, its RSP word (R54, R55). -/
def commandEvents (out : List Byte) (outcome : Option ErrorKind) : List HostEvent :=
  [.accepted] ++ out.map .out ++ [.rsp (rspWord outcome)]

/-! ### Runs -/

/-- `n` steps, stopping at the first fault or refusal. -/
def run : Nat → State → Host.Outcome State Fault Refusal
  | 0, s => .next s
  | n + 1, s =>
    match step s with
    | .next t => run n t
    | .fault f => .fault f
    | .refused r => .refused r

/-- The phases that the next `n` steps run (R174). -/
def phaseTrace : Nat → State → List Phase
  | 0, _ => []
  | n + 1, s =>
    s.phase :: match step s with
      | .next t => phaseTrace n t
      | .fault _ => []
      | .refused _ => []

/-- A list of instructions carried out one after the other, stopping at the first fault or refusal. -/
def execAll : List Instr → State → Host.Outcome State Fault Refusal
  | [], s => .next s
  | i :: rest, s =>
    match exec i s with
    | .next t => execAll rest t
    | .fault f => .fault f
    | .refused r => .refused r

/-! ### Closed forms -/

/-- `B(j) = E(K0, V0 + j mod 2^128)` (R152, R155). -/
def blockAt (cfg : Config) (k v : Block) (j : Nat) : Block := cfg.E k (v + BitVec.ofNat 128 j)

/-- `B(1) || B(2) || ... || B(n)` (R155). -/
def blocksUpTo (cfg : Config) (k v : Block) (n : Nat) : List Byte :=
  (List.range n).flatMap fun j => blockBytes (blockAt cfg k v (j + 1))

/-- The encryptions that produce `B(1)` to `B(n)`: V incremented before each (R109). -/
def encryptionsUpTo (cfg : Config) (k v : Block) (n : Nat) : List CiphEvent :=
  (List.range n).map fun j => .encrypt (v + BitVec.ofNat 128 (j + 1)) (blockAt cfg k v (j + 1))

/-- The bits of a byte string from left to right: bit 7 down to bit 0 of each byte (R14). -/
def leftToRightBits (B : List Byte) : List Bool :=
  B.flatMap fun b => [b.getLsbD 7, b.getLsbD 6, b.getLsbD 5, b.getLsbD 4, b.getLsbD 3, b.getLsbD 2, b.getLsbD 1, b.getLsbD 0]

/-- `out` is the leftmost `L` bits of `B`, left to right, in `ceil(L / 8)` bytes, the bits beyond the `L`-th zero
(R60, R153). -/
def IsLeftmostBits (L : Nat) (B out : List Byte) : Prop :=
  out.length = (L + 7) / 8 ∧
    leftToRightBits out = (leftToRightBits B).take L ++ List.replicate (8 * ((L + 7) / 8) - L) false

/-- The steps of the phase machine after an acceptance (R174). -/
def stepsAfterAcceptance (cfg : Config) (w : CmdWord) (rc : BitVec 32) : Nat :=
  match commandStatus cfg w rc with
  | some _ => 0
  | none =>
    if cmdOp w = 1 then 8 else if cmdOp w = 2 then 7 else 2 * outBlocks cfg (cmdLen w) + 7

/-- The phases after an acceptance, in order (R174). -/
def phasesAfterAcceptance (cfg : Config) (w : CmdWord) (rc : BitVec 32) : List Phase :=
  let updateFsm : List Phase := [.updIncr, .updEnc, .updIncr, .updEnc, .updXor, .updCommit, .finish]
  match commandStatus cfg w rc with
  | some _ => []
  | none =>
    if cmdOp w = 1 then .instZero :: updateFsm
    else if cmdOp w = 2 then updateFsm
    else (List.replicate (outBlocks cfg (cmdLen w)) [Phase.genIncr, Phase.genEnc]).flatten ++ updateFsm

/-! ### The invariant of the sequencer -/

/-- The cipher's key follows KEY (R66, R187 a): in IDLE and INST_ZERO once instantiated, in every later phase always. -/
def State.CipherCoherent (s : State) : Prop :=
  match s.phase with
  | .idle | .instZero => s.rc ≠ 0 → s.ck = s.key
  | _ => s.ck = s.key

/-- TLEN by phase (R187 b). -/
def State.TlenLegal (s : State) : Prop :=
  match s.phase with
  | .updIncr | .updEnc => s.tlen = 0 ∨ s.tlen = 16
  | .updXor | .updCommit => s.tlen = 32
  | _ => s.tlen = 0

/-- TEMP is zero beyond its TLEN valid bytes (R29, R175, R182, R184). -/
def State.TempZeroPadded (s : State) : Prop :=
  (s.tlen = 0 → s.temp = 0) ∧ (s.tlen = 16 → tempLow s.temp = 0)

/-- In IDLE every latch is zero (R187 c); SEEDL is from UPD_COMMIT on (R130, R184). -/
def State.LatchesScrubbed (s : State) : Prop :=
  match s.phase with
  | .idle => s.temp = 0 ∧ s.seedl = 0 ∧ s.opl = 0 ∧ s.bitsrem = 0
  | .finish => s.temp = 0 ∧ s.seedl = 0
  | _ => True

/-- BITSREM by phase (R31, R187 d). -/
def State.BitsremLegal (s : State) : Prop :=
  match s.phase with
  | .genIncr | .genEnc => s.bitsrem ≠ 0
  | _ => s.bitsrem = 0

/-- OPL by phase (R187 e). -/
def State.OplLegal (s : State) : Prop :=
  match s.phase with
  | .idle => s.opl = 0
  | .instZero => s.opl = 1
  | .genIncr | .genEnc => s.opl = 3
  | _ => s.opl = 1 ∨ s.opl = 2 ∨ s.opl = 3

/-- RC stays within the budget (R24), and a command past its checks found it where they ask (R203, R204). -/
def State.BudgetLegal (s : State) : Prop :=
  s.rc.toNat ≤ hw.reseedInterval + 1 ∧ (s.opl = 2 → s.rc ≠ 0) ∧
    (s.opl = 3 → s.rc ≠ 0 ∧ s.rc.toNat ≤ hw.reseedInterval)

/-- GENERATE updates with the zero string (R164). -/
def State.GenerateSeedZero (s : State) : Prop := s.opl = 3 → s.seedl = 0

/-- An idle uninstantiated sequencer still has the zero key and vector of its construction (R34, R203, R208). -/
def State.UninstantiatedZero (s : State) : Prop := s.phase = .idle → s.rc = 0 → s.key = 0 ∧ s.v = 0

/-- The invariant of the sequencer: what holds before every step from reset onward (R24, R66, R187). -/
structure State.Inv (s : State) : Prop where
  coherent : s.CipherCoherent
  tlen : s.TlenLegal
  padded : s.TempZeroPadded
  scrubbed : s.LatchesScrubbed
  bitsrem : s.BitsremLegal
  opl : s.OplLegal
  budget : s.BudgetLegal
  zeroSeed : s.GenerateSeedZero
  uninstantiated : s.UninstantiatedZero

/-! ### The phase graph -/

/-- The host offers `w`, and `w` passes the checks of its acceptance (R175, R205). -/
def State.OfferPasses (s : State) (w : CmdWord) : Prop := s.cmd = some w ∧ commandStatus hw w s.rc = none

/-- The host offers nothing, or a word that fails a check of its acceptance (R175, R176). -/
def State.NothingPasses (s : State) : Prop :=
  s.cmd = none ∨ ∃ w, s.cmd = some w ∧ commandStatus hw w s.rc ≠ none

/-- The edges of R172's table with their conditions: out of IDLE on the word offered and RC before the step, out of
GEN_ENC and UPD_ENC on BITSREM and TLEN after it. -/
def PhaseEdge (s t : State) : Prop :=
  match s.phase with
  | .idle => t.phase = .idle ∧ s.NothingPasses ∨
      ∃ w, s.OfferPasses w ∧ t.opl = cmdOp w ∧
        (t.phase = .instZero ∧ cmdOp w = 1 ∨
          t.phase = .updIncr ∧ (cmdOp w = 2 ∨ cmdOp w = 3 ∧ cmdLen w = 0 ∧ t.bitsrem = 0) ∨
          t.phase = .genIncr ∧ cmdOp w = 3 ∧ 0 < cmdLen w ∧ t.bitsrem ≠ 0)
  | .instZero => t.phase = .updIncr
  | .genIncr => t.phase = .genEnc
  | .genEnc => t.phase = .genIncr ∧ t.bitsrem ≠ 0 ∨ t.phase = .updIncr ∧ t.bitsrem = 0
  | .updIncr => t.phase = .updEnc
  | .updEnc => t.phase = .updIncr ∧ t.tlen.toNat < 32 ∨ t.phase = .updXor ∧ t.tlen = 32
  | .updXor => t.phase = .updCommit
  | .updCommit => t.phase = .finish
  | .finish => t.phase = .idle

end Sys2Proof.Machine
end

