-- ==== Sys2Proof/Certificates/Slice0/Obligations.lean ====
section
/-! DEFINITION. The statements for the provers. Each docstring names the rules of spec/ it formalises; a statement that
rests on a choice of the model names the log entry. Unless it says otherwise a statement holds for every state. Where a
statement writes `s.nextOffer`, that the host's next offer then comes to stand is the model's choice (log entry 8); where it
drops the head of `resetIn`, that the reset input is sampled so is the model's reading (log entry 15). -/

open Sys2Proof Sys2Proof.Machine

/-! ### Encoding -/

/-- R81, R82, R90, R91: every well-formed instruction, at every value of its operands, decodes from its own code. -/
def Obligations.DecodeOfEncodeIsIdentity : Prop :=
  ∀ i : Instr, i.wf = true → decode (encode i) = .ok i

/-- R80, R88, R90: each code has one meaning: a code that decodes is the code of the instruction it decodes to. -/
def Obligations.EncodeOfDecodeIsIdentity : Prop :=
  ∀ (c : Code) (i : Instr), decode c = .ok i → encode i = c ∧ i.wf = true

/-- R93: each row of the opcode map selects exactly the words that decode to its command, with EOS (bit 4) and LEN
(63:32) free; the three patterns are disjoint; a word that matches none is illegal, whatever RC. -/
def Obligations.OpcodeMapSelectsCommands : Prop :=
  ∀ w : CmdWord,
    (instantiateRow.selects w = true ↔ decodeCmd w = .ok (.instantiate (w.getLsbD 4) (w.extractLsb' 32 32).toNat)) ∧
    (reseedRow.selects w = true ↔ decodeCmd w = .ok (.reseed (w.getLsbD 4) (w.extractLsb' 32 32).toNat)) ∧
    (generateRow.selects w = true ↔ decodeCmd w = .ok (.generate (w.extractLsb' 32 32).toNat)) ∧
    ¬(instantiateRow.selects w = true ∧ reseedRow.selects w = true) ∧
    ¬(instantiateRow.selects w = true ∧ generateRow.selects w = true) ∧
    ¬(reseedRow.selects w = true ∧ generateRow.selects w = true) ∧
    (instantiateRow.selects w = false ∧ reseedRow.selects w = false ∧ generateRow.selects w = false ↔
      ∀ rc, commandStatus hw w rc = some .illegalCommand)

/-- R88: a word is illegal exactly when OP is 0x0 or 0x4 to 0xF, or RSV is not zero, or OP is 0x3 and EOS is 1; every
other word decodes to a command. An illegal word offered to an idle sequencer, at either level, is accepted, changes no
register and nothing in the cipher, writes nothing to OUT and ends with STATUS 6. (That at the command level the acceptance
of IDLE answers it is the model's reading: log entry 14.) -/
def Obligations.IllegalWordIsRefusedWithoutEffect : Prop :=
  ∀ w : CmdWord,
    let illegal := w.extractLsb' 0 4 = 0#4 ∨ 4 ≤ (w.extractLsb' 0 4).toNat ∨ w.extractLsb' 5 27 ≠ 0#27 ∨
      (w.extractLsb' 0 4 = 3#4 ∧ w.getLsbD 4 = true)
    (illegal ↔ ∃ e, decodeCmd w = .error e) ∧
    ∀ s : State, illegal → s.phase = .idle → s.cmd = some w → s.resetAsserted = false →
      step s = .next { s.nextOffer with
        resetIn := s.resetIn.tail
        obs := s.obs ++ [.accepted, .rsp 6] }

/-- R90, R186: the PHASE values 0 to 8 select the nine phases in the table's order, and 9 to 15 select nothing; while the
sequencer is busy the value of PHASE alone says what the next step runs. -/
def Obligations.PhaseValueSelectsMicroOperation : Prop :=
  (∀ p : BitVec 4, decodePhase p =
    if h : p.toNat < 9 then
      .ok ([.idle, .instZero, .genIncr, .genEnc, .updIncr, .updEnc, .updXor, .updCommit, .finish][p.toNat]'h)
    else .error .unusedPhase) ∧
  ∀ s : State, s.phase ≠ .idle → fetch s = s.phase.instr ∧ ∃ p, decodePhase p = .ok s.phase.instr

/-- Sanity: words of 95_test_vectors.md sections 3.6 and 3.7, and two phase codes, decode to what they stand for. -/
def Obligations.SampleWordsDecode : Prop :=
  decodeCmd 0x0000002000000001 = .ok (.instantiate false 32) ∧
  decodeCmd 0x0000001F00000011 = .ok (.instantiate true 31) ∧
  decodeCmd 0x0000002000000002 = .ok (.reseed false 32) ∧
  decodeCmd 0x0000008000000003 = .ok (.generate 128) ∧
  decodeCmd 0xFFFFFFFF00000003 = .ok (.generate 4294967295) ∧
  decodeCmd 0x0000000800000013 = .error .eosInGenerate ∧
  decodeCmd 0x0000002000000021 = .error .reservedBits ∧
  decodeCmd 0x000000200000000F = .error .reservedOpcode ∧
  decodePhase 5 = .ok .updEnc ∧
  decodePhase 9 = .error .unusedPhase

/-- R91, R92: a line assembles exactly when its LEN fits 32 bits; the word decodes to the command with the line's EOS and
LEN; a pseudo-instruction assembles as the line it rewrites; and SEEDW carries byte `i` of the seed at byte `i`, for the
first 32 bytes, and zero in the rest. -/
def Obligations.AssemblerCarriesOperands : Prop :=
  (∀ (seed : List Byte) (eos : Bool),
    (assemble (.instantiate seed eos) =
      if seed.length < 2 ^ 32 then some ⟨cmdWord 1 eos seed.length, seedwOf seed⟩ else none) ∧
    (assemble (.reseed seed eos) =
      if seed.length < 2 ^ 32 then some ⟨cmdWord 2 eos seed.length, seedwOf seed⟩ else none) ∧
    (seed.length < 2 ^ 32 →
      decodeCmd (cmdWord 1 eos seed.length) = .ok (.instantiate eos seed.length) ∧
      decodeCmd (cmdWord 2 eos seed.length) = .ok (.reseed eos seed.length)) ∧
    (∀ i < 32, (seedBytes (seedwOf seed))[i]? = some (seed.getD i 0)) ∧
    (seed.length = 32 → seedBytes (seedwOf seed) = seed)) ∧
  (∀ n : Nat,
    (n < 2 ^ 32 → ∃ o, assemble (.generate n) = some o ∧ o.cmd = BitVec.ofNat 64 (n * 2 ^ 32 + 3) ∧
      decodeCmd o.cmd = .ok (.generate n)) ∧
    (2 ^ 32 ≤ n → assemble (.generate n) = none)) ∧
  ∀ k : Nat, assemble (.generateBytes k) = assemble (.generate (8 * k)) ∧
    assemble (.generateBlocks k) = assemble (.generate (128 * k))

/-! ### The FixedWidthCounter -/

/-- R102: the byte-level increment is addition of 1 modulo 2^(8n), keeps the length, and `k` of them add `k`; in register
terms it is `V <- (V + 1) mod 2^128`. -/
def Obligations.IncrementAddsOneModuloWidth : Prop :=
  (∀ B : List Byte,
    beInt (counterIncr B) = (beInt B + 1) % 2 ^ (8 * B.length) ∧
    (counterIncr B).length = B.length ∧
    ∀ k, counterIncr^[k] B = beBytes ((beInt B + k) % 2 ^ (8 * B.length)) B.length) ∧
  ∀ s : State, blockBytes s.incrV.v = counterIncr (blockBytes s.v) ∧ s.incrV = { s with v := s.incrV.v }

/-- R101, R103: a last byte that is not 0xFF gains 1 and nothing else changes; a run of `k` trailing 0xFF bytes becomes
zero and the byte before it gains 1; all bytes 0xFF become all zero, with no error; the next increment gives 1. -/
def Obligations.IncrementCarriesAndWraps : Prop :=
  (∀ (A : List Byte) (b : Byte) (k : Nat), b ≠ 0xFF →
    counterIncr (A ++ [b] ++ List.replicate k 0xFF) = A ++ [b + 1] ++ List.replicate k 0) ∧
  (∀ n : Nat, counterIncr (List.replicate n 0xFF) = List.replicate n 0) ∧
  ∀ n : Nat, counterIncr (List.replicate (n + 1) 0) = List.replicate n 0 ++ [1]

/-- R104: `from_integer(value, width)` raises RangeError exactly when the value does not fit in `width` bytes, and
otherwise gives the `width` bytes whose integer is the value. -/
def Obligations.FromIntegerRaisesRangeErrorExactly : Prop :=
  ∀ value width : Nat, 1 ≤ width →
    (fromInteger value width = .error .rangeError ↔ 2 ^ (8 * width) ≤ value) ∧
    (value < 2 ^ (8 * width) →
      ∃ B, fromInteger value width = .ok B ∧ B.length = width ∧ beInt B = value)

/-- R105, R107: the integer and byte views are mutual inverses, and `from_integer` of a counter's own integer never
raises. -/
def Obligations.CounterViewsRoundTrip : Prop :=
  (∀ B : List Byte, fromInteger (asInteger B) B.length = .ok B) ∧
  ∀ v n : Nat, v < 2 ^ (8 * n) →
    ∃ B, fromInteger v n = .ok B ∧ asInteger B = v ∧ asBytes B = beBytes v n

/-! ### Truncation -/

/-- R60, R89, R153: the output for `L` bits is `ceil(L / 8)` bytes; read from left to right their first `L` bits are the
first `L` bits of the blocks, and the bits beyond the `L`-th are zero. -/
def Obligations.TruncationKeepsLeftmostBits : Prop :=
  ∀ (L : Nat) (B : List Byte), L ≤ 8 * B.length →
    (leftmostBits L B).length = (L + 7) / 8 ∧
    leftToRightBits (leftmostBits L B) =
      (leftToRightBits B).take L ++ List.replicate (8 * ((L + 7) / 8) - L) false

/-! ### The update function -/

/-- R120 to R127, for every cipher function `E`: seed material of any other length than 32 bytes is refused with
InvalidInputLength; with 32 bytes `S`, and the cipher keyed with KEY, the update replaces KEY by
`E(K0, incr(V0)) xor S[0..16)` and V by `E(K0, incr(incr(V0))) xor S[16..32)`, re-keys the cipher with the new KEY, makes
two encryptions and one rekey in that order, and changes nothing else, RC included. -/
def Obligations.UpdateReplacesKeyAndVector : Prop :=
  ∀ (cfg : Config) (S : List Byte) (s : State), cfg.Wf →
    (S.length ≠ 32 → update cfg S s = .error .invalidInputLength) ∧
    (S.length = 32 → s.ck = s.key →
      let b1 := cfg.E s.key (s.v + 1)
      let b2 := cfg.E s.key (s.v + 2)
      let k' := b1 ^^^ blockOf (S.take 16)
      update cfg S s = .ok { s with
        key := k'
        v := b2 ^^^ blockOf (S.drop 16)
        ck := k'
        ciph := s.ciph ++ [.encrypt (s.v + 1) b1, .encrypt (s.v + 2) b2, .rekey k'] })

/-! ### The commands -/

/-- R141, R142, R144: in IDLE, in every lifecycle state and whatever the prior KEY, V, RC and CK, INSTANTIATE with LEN 32
(EOS either way) succeeds: the state is the closed form of R142, the host sees acceptance and STATUS 0, the cipher sees a
rekey to zero, two encryptions of 1 and 2 under it and a rekey to the new KEY; nothing else changes. -/
def Obligations.InstantiateSucceeds : Prop :=
  ∀ (eos : Bool) (s : State), s.phase = .idle →
    let k' := hw.E 0 1 ^^^ s.seedw.extractLsb' 128 128
    exec (.instantiate eos 32) s = .next { s.nextOffer with
      key := k'
      v := hw.E 0 2 ^^^ s.seedw.extractLsb' 0 128
      ck := k'
      rc := 1
      obs := s.obs ++ [.accepted, .rsp 0]
      ciph := s.ciph ++ [.rekey 0, .encrypt 1 (hw.E 0 1), .encrypt 2 (hw.E 0 2), .rekey k'] }

/-- R146, R147: in IDLE, once instantiated and with the cipher keyed with KEY (R66, an invariant), RESEED with LEN 32
succeeds, at RC = 1001 too: the closed form of R147, STATUS 0, two encryptions and one rekey; nothing else changes. -/
def Obligations.ReseedSucceeds : Prop :=
  ∀ (eos : Bool) (s : State), s.phase = .idle → s.rc ≠ 0 → s.ck = s.key →
    let b1 := hw.E s.key (s.v + 1)
    let b2 := hw.E s.key (s.v + 2)
    let k' := b1 ^^^ s.seedw.extractLsb' 128 128
    exec (.reseed eos 32) s = .next { s.nextOffer with
      key := k'
      v := b2 ^^^ s.seedw.extractLsb' 0 128
      ck := k'
      rc := 1
      obs := s.obs ++ [.accepted, .rsp 0]
      ciph := s.ciph ++ [.encrypt (s.v + 1) b1, .encrypt (s.v + 2) b2, .rekey k'] }

/-- R150, R152 to R155, R160, R161: in IDLE, Ready and with the cipher keyed with KEY (R66, an invariant), GENERATE of any
number `L` of bits, 0 included, succeeds: with `m = ceil(L / 128)` the OUT bytes are the leftmost `L` bits of
`B(1) || ... || B(m)`, then KEY becomes `B(m + 1)`, V becomes `B(m + 2)`, CK follows KEY and RC gains 1; `m + 2`
encryptions, all under the old KEY, and one rekey; nothing else changes. -/
def Obligations.GenerateSucceeds : Prop :=
  ∀ (L : Nat) (s : State), s.phase = .idle → s.rc ≠ 0 → s.rc.toNat ≤ 1000 → s.ck = s.key →
    let m := (L + 127) / 128
    exec (.generate L) s = .next { s.nextOffer with
      key := blockAt hw s.key s.v (m + 1)
      v := blockAt hw s.key s.v (m + 2)
      ck := blockAt hw s.key s.v (m + 1)
      rc := s.rc + 1
      obs := s.obs ++ [.accepted] ++ (leftmostBits L (blocksUpTo hw s.key s.v m)).map .out ++ [.rsp 0]
      ciph := s.ciph ++ encryptionsUpTo hw s.key s.v (m + 2) ++ [.rekey (blockAt hw s.key s.v (m + 1))] }

/-- R140, R201 to R204, R206, R208: when each command fails, and with which status, in the order of priority; a failed
command is accepted, answered with its status, and changes no register, nothing on OUT and nothing in the cipher. -/
def Obligations.FailedCommandHasNoEffect : Prop :=
  ∀ s : State, s.phase = .idle →
    let refusedWith (code : RspWord) : Host.Outcome State Fault Refusal :=
      .next { s.nextOffer with obs := s.obs ++ [.accepted, .rsp code] }
    (∀ len, len < 32 → exec (.instantiate true len) s = refusedWith 2) ∧
    (∀ len, len < 32 → exec (.instantiate false len) s = refusedWith 1) ∧
    (∀ eos len, 32 < len → exec (.instantiate eos len) s = refusedWith 1) ∧
    (s.rc = 0 → ∀ eos len, exec (.reseed eos len) s = refusedWith 5) ∧
    (s.rc ≠ 0 → ∀ len, len < 32 → exec (.reseed true len) s = refusedWith 2) ∧
    (s.rc ≠ 0 → ∀ len, len < 32 → exec (.reseed false len) s = refusedWith 1) ∧
    (s.rc ≠ 0 → ∀ eos len, 32 < len → exec (.reseed eos len) s = refusedWith 1) ∧
    (s.rc = 0 → ∀ len, exec (.generate len) s = refusedWith 5) ∧
    (1000 < s.rc.toNat → ∀ len, exec (.generate len) s = refusedWith 3)

/-- R54, R55, R205: at the command level one step takes an offered word from IDLE to IDLE; the host sees its acceptance,
its OUT bytes and last its one RSP word, whose status is R205's function of the word and RC; a successful GENERATE of `L`
bits writes exactly `ceil(L / 8)` bytes and every other command none. -/
def Obligations.CommandAnswersOnceWithItsStatus : Prop :=
  ∀ (s : State) (w : CmdWord), s.phase = .idle → s.level = .command → s.cmd = some w → s.resetAsserted = false →
    ∃ (t : State) (out : List Byte), step s = .next t ∧ t.phase = .idle ∧
      t.obs = s.obs ++ commandEvents out (commandStatus hw w s.rc) ∧
      out.length =
        if commandStatus hw w s.rc = none ∧ cmdOp w = 3 then (cmdLen w + 7) / 8 else 0

/-- R52: a command offered while the sequencer is busy is held. Its execution changes nothing, nor does IDLE's acceptance
(that `exec` leaves the whole state alone is the model's reading of "held": log entry 5), and no step of a busy sequencer
at either level touches the ports CMD and SEED or the offers after. That a step that takes a reset does not touch them
either is the model's own choice: log entry 9. -/
def Obligations.OfferIsHeldWhileBusy : Prop :=
  ∀ s : State, s.phase ≠ .idle →
    (∀ eos len, exec (.instantiate eos len) s = .next s ∧ exec (.reseed eos len) s = .next s ∧
      exec (.generate len) s = .next s) ∧
    exec .idle s = .next s ∧
    ∀ t, step s = .next t → t.cmd = s.cmd ∧ t.seedw = s.seedw ∧ t.offers = s.offers

/-- R165, R170, R171: the table of outcomes. With a whole seed, INSTANTIATE gives OK and RC 1 from every lifecycle state;
RESEED gives OK and RC 1 from Ready and Exhausted, and NotInstantiated and no change from Uninstantiated; GENERATE gives
OK and RC + 1 from Ready, NotInstantiated from Uninstantiated and ReseedRequired from Exhausted, both with no change; the
lifecycle state follows RC. -/
def Obligations.LifecycleTable : Prop :=
  ∀ (s : State) (eos : Bool) (L : Nat), s.phase = .idle →
    let answers (i : Instr) (word : RspWord) (rc' : BitVec 32) (kept : Bool) : Prop :=
      ∃ t, exec i s = .next t ∧ t.rspWords = s.rspWords ++ [word] ∧ t.rc = rc' ∧
        (kept = true → t.key = s.key ∧ t.v = s.v ∧ t.ck = s.ck ∧ t.outStream = s.outStream)
    answers (.instantiate eos 32) 0 1 false ∧
    (s.lifecycle hw = .uninstantiated →
      answers (.reseed eos 32) 5 s.rc true ∧ answers (.generate L) 5 s.rc true) ∧
    (s.lifecycle hw = .ready →
      answers (.reseed eos 32) 0 1 false ∧ answers (.generate L) 0 (s.rc + 1) false ∧
      (∀ t, exec (.generate L) s = .next t →
        t.lifecycle hw = if s.rc = 1000 then .exhausted else .ready)) ∧
    (s.lifecycle hw = .exhausted →
      answers (.reseed eos 32) 0 1 false ∧ answers (.generate L) 3 s.rc true) ∧
    (∀ t : State, t.rc = 1 → t.lifecycle hw = .ready)

/-- R143, R157: INSTANTIATE with one seed gives one state from every prior state: KEY, V, RC and CK are the same from any
two states that present the same seed, and so is the output of the GENERATE that follows. -/
def Obligations.InstantiateForgetsPriorState : Prop :=
  ∀ (s₁ s₂ t₁ t₂ : State) (e₁ e₂ : Bool) (L : Nat), s₁.phase = .idle → s₂.phase = .idle → s₁.seedw = s₂.seedw →
    exec (.instantiate e₁ 32) s₁ = .next t₁ → exec (.instantiate e₂ 32) s₂ = .next t₂ →
    t₁.key = t₂.key ∧ t₁.v = t₂.v ∧ t₁.rc = t₂.rc ∧ t₁.ck = t₂.ck ∧
    ∃ u₁ u₂ out, exec (.generate L) t₁ = .next u₁ ∧ exec (.generate L) t₂ = .next u₂ ∧
      u₁.outStream = t₁.outStream ++ out ∧ u₂.outStream = t₂.outStream ++ out

/-- R18, R53, R128, R157: what a command does and shows depends on nothing but KEY, V, RC, CK, the command, and, for
INSTANTIATE and RESEED, the seed presented: two idle states that agree on these answer any command alike and agree on
KEY, V, RC and CK after it, whatever their latches, earlier outputs and, for GENERATE, SEED words. -/
def Obligations.CommandsDependOnArchitecturalStateOnly : Prop :=
  ∀ (i : Instr) (s₁ s₂ : State), phaseOf i = none → s₁.phase = .idle → s₂.phase = .idle →
    s₁.key = s₂.key → s₁.v = s₂.v → s₁.rc = s₂.rc → s₁.ck = s₂.ck →
    ((∃ L, i = .generate L) ∨ s₁.seedw = s₂.seedw) →
    ∃ t₁ t₂ seen made, exec i s₁ = .next t₁ ∧ exec i s₂ = .next t₂ ∧
      t₁.key = t₂.key ∧ t₁.v = t₂.v ∧ t₁.rc = t₂.rc ∧ t₁.ck = t₂.ck ∧
      t₁.obs = s₁.obs ++ seen ∧ t₂.obs = s₂.obs ++ seen ∧
      t₁.ciph = s₁.ciph ++ made ∧ t₂.ciph = s₂.ciph ++ made

/-- R158: how a request is cut matters beyond its first block only: from one state `GENERATE 128` and `GENERATE 128 * N`
write the same first 16 bytes, the second writes `16 * (N - 1)` more, and both leave RC + 1. -/
def Obligations.FirstBlockIgnoresGranularity : Prop :=
  ∀ (s : State) (N : Nat), s.phase = .idle → s.lifecycle hw = .ready → 1 ≤ N →
    ∃ t u first rest, exec (.generate 128) s = .next t ∧ exec (.generate (128 * N)) s = .next u ∧
      t.outStream = s.outStream ++ first ∧ u.outStream = s.outStream ++ first ++ rest ∧
      first.length = 16 ∧ rest.length = 16 * (N - 1) ∧ t.rc = s.rc + 1 ∧ u.rc = s.rc + 1

/-- R159, R204, R215, R237: the reseed budget. From an idle state with `RC = r`, `1 <= r <= 1001`, exactly `1001 - r`
GENERATE commands of any lengths succeed one after the other (1000 after INSTANTIATE or RESEED, 999 after one more
GENERATE), `g` of them leave `RC = r + g`, and the next one of any length is refused with ReseedRequired, with no effect. -/
def Obligations.ReseedBudgetIsExact : Prop :=
  ∀ (s : State) (r : Nat) (lens : List Nat), s.phase = .idle → s.rc = BitVec.ofNat 32 r → 1 ≤ r →
    r + lens.length ≤ 1001 →
    ∃ t, execAll (lens.map .generate) s = .next t ∧ t.phase = .idle ∧
      t.rspWords = s.rspWords ++ List.replicate lens.length 0 ∧ t.rc = BitVec.ofNat 32 (r + lens.length) ∧
      (r + lens.length = 1001 → ∀ L, exec (.generate L) t = .next { t.nextOffer with
        obs := t.obs ++ [.accepted, .rsp 3] })

/-- R156: the block-cipher invocation counts of every command, successful or failed: INSTANTIATE 2 encryptions and 2
rekeys, RESEED 2 and 1, GENERATE of `L` bits `ceil(L / 128) + 2` and 1, a failed or illegal command none. -/
def Obligations.CipherCallCounts : Prop :=
  ∀ (s : State) (w : CmdWord), s.phase = .idle → s.level = .command → s.cmd = some w → s.resetAsserted = false →
    ∃ t made, step s = .next t ∧ t.ciph = s.ciph ++ made ∧
      let encryptions := made.countP CiphEvent.isEncrypt
      let rekeys := made.length - encryptions
      (encryptions, rekeys) =
        if commandStatus hw w s.rc ≠ none then (0, 0)
        else if cmdOp w = 1 then (2, 2)
        else if cmdOp w = 2 then (2, 1)
        else ((cmdLen w + 127) / 128 + 2, 1)

/-! ### The phases -/

/-- R178: INST_ZERO zeroes KEY and V, re-keys the cipher with zero and goes to UPD_INCR; nothing else changes. -/
def Obligations.InstZeroClearsKeyAndVector : Prop :=
  ∀ s : State, exec .instZero s = .next { s with
    key := 0, v := 0, ck := 0, ciph := s.ciph ++ [.rekey 0], phase := .updIncr }

/-- R179, R181: GEN_INCR and UPD_INCR add 1 to V modulo 2^128 and go to GEN_ENC and UPD_ENC; nothing else changes. -/
def Obligations.IncrementPhasesAdvanceVector : Prop :=
  ∀ s : State,
    exec .genIncr s = .next { s with v := BitVec.ofNat 128 ((s.v.toNat + 1) % 2 ^ 128), phase := .genEnc } ∧
    exec .updIncr s = .next { s with v := BitVec.ofNat 128 ((s.v.toNat + 1) % 2 ^ 128), phase := .updEnc }

/-- R180: GEN_ENC encrypts V under CK. With 128 bits or more to go the whole block goes to OUT and BITSREM drops by 128;
with fewer, `ceil(BITSREM / 8)` bytes go out, the last cut to its leftmost `BITSREM mod 8` bits when that is not 0, and
BITSREM becomes 0. GEN_INCR is next while bits remain, UPD_INCR otherwise; nothing else changes. (At BITSREM = 0, outside
R180's precondition, the model runs the rule's text: log entry 6.) -/
def Obligations.GenEncWritesOneBlock : Prop :=
  ∀ s : State,
    let blk := hw.E s.ck s.v
    let b := s.bitsrem.toNat
    (128 ≤ b → exec .genEnc s = .next { s with
      bitsrem := BitVec.ofNat 32 (b - 128)
      obs := s.obs ++ (blockBytes blk).map .out
      ciph := s.ciph ++ [.encrypt s.v blk]
      phase := if b = 128 then .updIncr else .genIncr }) ∧
    (b < 128 → exec .genEnc s = .next { s with
      bitsrem := 0
      obs := s.obs ++ (leftmostBits b (blockBytes blk)).map .out
      ciph := s.ciph ++ [.encrypt s.v blk]
      phase := .updIncr })

/-- R182: UPD_ENC encrypts V under CK and appends the block to TEMP: at TLEN 0 as its first 16 bytes, with UPD_INCR next;
at TLEN 16 as its last 16 bytes, with UPD_XOR next; TLEN gains 16 and nothing else changes. Under any other TLEN the
model stops with a fault, R182 giving no effect there (log entry 6). -/
def Obligations.UpdEncAppendsOneBlock : Prop :=
  ∀ s : State,
    let blk := hw.E s.ck s.v
    (s.tlen = 0 → exec .updEnc s = .next { s with
      temp := blk ++ s.temp.extractLsb' 0 128, tlen := 16
      ciph := s.ciph ++ [.encrypt s.v blk], phase := .updIncr }) ∧
    (s.tlen = 16 → exec .updEnc s = .next { s with
      temp := s.temp.extractLsb' 128 128 ++ blk, tlen := 32
      ciph := s.ciph ++ [.encrypt s.v blk], phase := .updXor }) ∧
    (s.tlen ≠ 0 → s.tlen ≠ 16 → exec .updEnc s = .fault .updEncTlen)

/-- R183: UPD_XOR replaces TEMP by TEMP xor SEEDL, bit by bit, and goes to UPD_COMMIT; nothing else changes; with SEEDL
zero, as in GENERATE, TEMP keeps its value. (R183 has the precondition TLEN = 32; that under any other TLEN the phase runs
the rule's text too is the model's own choice: log entry 6.) -/
def Obligations.UpdXorMixesSeed : Prop :=
  ∀ s : State, ∃ t : State,
    exec .updXor s = .next { s with temp := t.temp, phase := .updCommit } ∧
    (∀ i < 256, t.temp.getLsbD i = (s.temp.getLsbD i != s.seedl.getLsbD i)) ∧
    (s.seedl = 0 → t.temp = s.temp)

/-- R184: UPD_COMMIT moves TEMP[255:128] to KEY and TEMP[127:0] to V, re-keys the cipher with the new KEY, clears TEMP,
TLEN and SEEDL, and goes to FINISH; nothing else changes. -/
def Obligations.UpdCommitReplacesState : Prop :=
  ∀ s : State, exec .updCommit s = .next { s with
    key := s.temp.extractLsb' 128 128
    v := s.temp.extractLsb' 0 128
    ck := s.temp.extractLsb' 128 128
    ciph := s.ciph ++ [.rekey (s.temp.extractLsb' 128 128)]
    temp := 0, tlen := 0, seedl := 0, phase := .finish }

/-- R185: FINISH adds 1 to RC in GENERATE and sets it to 1 otherwise, delivers STATUS OK, clears OPL and BITSREM and goes
to IDLE; nothing else changes. -/
def Obligations.FinishWritesCounterAndAnswers : Prop :=
  ∀ s : State, exec .finish s = .next { s with
    rc := if s.opl = 3 then s.rc + 1 else 1
    obs := s.obs ++ [.rsp 0]
    opl := 0, bitsrem := 0, phase := .idle }

/-- R175, R176: IDLE with no command offered changes nothing; that an offer of the host still to come then comes to
stand on the ports is the model's own choice (log entry 8), and with none to come the state is the same. A word that
fails a check is answered with its status and no register is written, not even a latch. A word that passes is latched:
OPL takes OP, TEMP and TLEN are cleared, GENERATE sets BITSREM to LEN and SEEDL to zero, the others BITSREM to 0 and
SEEDL to the SEED word, and PHASE becomes INST_ZERO for INSTANTIATE, GEN_INCR for GENERATE with LEN > 0 and UPD_INCR
otherwise; KEY, V, RC and CK are not written. -/
def Obligations.IdleAcceptsOrRefuses : Prop :=
  ∀ s : State, s.phase = .idle →
    (s.cmd = none → exec .idle s = .next s.nextOffer ∧ (s.offers = [] → exec .idle s = .next s)) ∧
    ∀ w, s.cmd = some w →
      (∀ x, commandStatus hw w s.rc = some x → exec .idle s = .next { s.nextOffer with
        obs := s.obs ++ [.accepted, .rsp (rspWord (some x))] }) ∧
      (commandStatus hw w s.rc = none →
        let op := w.extractLsb' 0 4
        let len := w.extractLsb' 32 32
        exec .idle s = .next { s.nextOffer with
          obs := s.obs ++ [.accepted]
          opl := op, temp := 0, tlen := 0
          bitsrem := if op = 3 then len else 0
          seedl := if op = 3 then 0 else s.seedw
          phase := if op = 1 then .instZero else if op = 3 ∧ len ≠ 0 then .genIncr else .updIncr })

/-! ### The step -/

/-- R12, R26, R173: with no reset asserted, a step runs one instruction: the phase in PHASE while busy and at the FSM
level; at the command level in IDLE, the command the offered word decodes to, or IDLE itself when nothing is offered. Not
of the rules but of the model: that a field of State chooses the level (log entry 1), that an illegal word at the command
level runs IDLE (log entry 14, deduced), and that the step first drops the head of the list of reset samples (log entry
15, deduced). -/
def Obligations.StepRunsTheSelectedInstruction : Prop :=
  ∀ s : State, s.resetAsserted = false →
    let s' := { s with resetIn := s.resetIn.tail }
    (s.phase ≠ .idle ∨ s.level = .fsm → step s = exec s.phase.instr s') ∧
    (s.phase = .idle → s.level = .command → s.cmd = none → step s = exec .idle s') ∧
    ∀ w, s.phase = .idle → s.level = .command → s.cmd = some w →
      (∀ i, decodeCmd w = .ok i → step s = exec i s') ∧
      (∀ e, decodeCmd w = .error e → step s = exec .idle s')

/-- A word the decoder reads, placed where the step finds its next instruction, is run by the very next step. This is about
the model's own placing of a word, which stands for the host's offer or for PHASE holding a code (log entry 4, deduced),
and its own reading of a table row of 8 bits or fewer as a PHASE code (log entry 17); no rule states either. -/
def Obligations.PlacedWordRunsNext : Prop :=
  ∀ (s : State) (nbits w : Nat) (i : Instr), decodeTableWord nbits w = some i →
    (s.withFetchWord nbits w).resetAsserted = false ∧
    step (s.withFetchWord nbits w) = exec i (s.withFetchWord nbits w).tick

/-! ### Reset -/

/-- R34: the registers after reset, all but CK, which is unspecified. -/
def Obligations.ResetValues : Prop :=
  let s := State.reset
  s.key = 0 ∧ s.v = 0 ∧ s.rc = 0 ∧ s.lifecycle hw = .uninstantiated ∧ s.phase = .idle ∧ s.opl = 0 ∧ s.bitsrem = 0 ∧
    s.seedl = 0 ∧ s.temp = 0 ∧ s.tlen = 0

/-- R219, R230, R231: a reset asserted at a step boundary wins over everything, a busy phase and an offered command
included: every register takes its reset value, CK some value; the offer is not accepted, no RSP word is delivered, the
OUT bytes already written stay written, and no CIPH transaction is made. A second reset changes no register but CK. Not of
the rules but of the model: that the offer, the SEED word and the offers after stand unchanged after the reset (log entry
9), and that the reset input is sampled once a step, from the head of a list (log entry 15, deduced). -/
def Obligations.ResetAbandonsTheCommand : Prop :=
  ∀ s : State, s.resetAsserted = true →
    ∃ t, step s = .next t ∧
      t = { s with
        key := 0, v := 0, rc := 0, phase := .idle, opl := 0, bitsrem := 0, seedl := 0, temp := 0, tlen := 0
        ck := t.ck, resetIn := s.resetIn.tail, resets := t.resets } ∧
      (t.resetAsserted = true → ∃ u, step t = .next u ∧
        u = { t with ck := u.ck, resetIn := t.resetIn.tail, resets := u.resets })

/-! ### Invariants and whole-machine rules -/

/-- R34, R187: the invariant holds at reset. -/
def Obligations.ResetMeetsTheInvariant : Prop := State.reset.Inv

/-- R24, R25, R66, R187: every step, at either level, a reset included, keeps the invariant of the sequencer: CK follows
KEY, TLEN, BITSREM and OPL are legal for the phase, every latch is zero in IDLE, RC stays within the budget. -/
def Obligations.StepKeepsTheInvariant : Prop :=
  ∀ s t : State, s.Inv → step s = .next t → t.Inv

/-- R140, R186, R197: from every state that meets the invariant the next step exists: the machine has no stuck state, no
fault and no refusal, and stays so for ever. It rests on the assumption of R197, U16 and U17 that OUT always accepts a byte
and that the cipher always answers: log entry 12. -/
def Obligations.SequencerIsNeverStuck : Prop :=
  ∀ (s : State) (n : Nat), s.Inv → ∃ t, run n s = .next t ∧ t.Inv

/-- R172: with no reset, every step of the phase machine follows an edge of the phase graph, under the edge's condition.
IDLE stays IDLE only when no command is offered or the one offered fails a check; it goes to INST_ZERO, UPD_INCR or
GEN_INCR only on an offered word that passes its checks, INSTANTIATE, RESEED or GENERATE with LEN = 0, and GENERATE with
LEN > 0; GEN_ENC goes on by BITSREM after the step, UPD_ENC by TLEN after it, and each other phase has its one successor. -/
def Obligations.PhaseStepsFollowTheGraph : Prop :=
  ∀ s t : State, s.Inv → s.level = .fsm → s.resetAsserted = false → step s = .next t → PhaseEdge s t

/-- R21, R22, R23, R30, R187 f, R208: who writes what. With no reset, a step that changes KEY or CK runs INST_ZERO or
UPD_COMMIT, one that changes V runs those or an increment, one that changes RC runs FINISH, or each runs a command as one
step; and whatever it runs, a step that leaves KEY other than it was leaves CK equal to KEY. -/
def Obligations.RegistersHaveTheirWritersOnly : Prop :=
  ∀ s t : State, s.resetAsserted = false → step s = .next t →
    let asOneStep := s.phase = .idle ∧ s.level = .command ∧ ∃ w, s.cmd = some w ∧ commandStatus hw w s.rc = none
    (t.key ≠ s.key ∨ t.ck ≠ s.ck → asOneStep ∨ s.phase = .instZero ∨ s.phase = .updCommit) ∧
    (t.v ≠ s.v → asOneStep ∨ s.phase = .instZero ∨ s.phase = .updCommit ∨ s.phase = .genIncr ∨ s.phase = .updIncr) ∧
    (t.rc ≠ s.rc → asOneStep ∨ s.phase = .finish) ∧
    (t.key ≠ s.key → t.ck = t.key)

/-- R55, R67, R72: what stands on the output ports is never taken back: a step only appends to the host's observations
and to the cipher's transactions; and only GEN_ENC or GENERATE as one step appends an OUT byte. -/
def Obligations.ObservationsOnlyGrow : Prop :=
  ∀ s t : State, step s = .next t →
    ∃ seen made, t.obs = s.obs ++ seen ∧ t.ciph = s.ciph ++ made ∧
      ((∃ b, HostEvent.out b ∈ seen) → fetch s = .genEnc ∨ ∃ L, fetch s = .generate L)

/-- R60, R72, R153, R180: OUT carries leading bits of blocks of the cipher under the key CK of the state before the step
(CK is KEY: R66, an invariant), and nothing else. GEN_ENC writes the leftmost `min(BITSREM, 128)` bits of the block `E(CK, V)`; GENERATE of `L` bits as one
step writes the leftmost `L` bits of `E(CK, V + 1) || E(CK, V + 2) || ...`, none when it fails a check; both in whole
bytes, the bits beyond those asked for zero. Every other step, one that takes a reset included, writes nothing. (At
BITSREM = 0, outside R180's precondition, nothing is written: log entry 6.) -/
def Obligations.OutBytesAreCipherBytes : Prop :=
  ∀ s t : State, step s = .next t →
    let writes (L : Nat) (B : List Byte) : Prop := ∃ out, t.outStream = s.outStream ++ out ∧ IsLeftmostBits L B out
    (s.resetAsserted = false → s.phase = .genEnc → writes (min s.bitsrem.toNat 128) (blockBytes (hw.E s.ck s.v))) ∧
    (∀ w L, s.resetAsserted = false → s.phase = .idle → s.level = .command → s.cmd = some w →
      decodeCmd w = .ok (.generate L) →
      (commandStatus hw w s.rc = none → writes L (blocksUpTo hw s.ck s.v ((L + 127) / 128))) ∧
      (commandStatus hw w s.rc ≠ none → t.outStream = s.outStream)) ∧
    (s.resetAsserted = true ∨ (fetch s ≠ .genEnc ∧ ∀ L, fetch s ≠ .generate L) → t.outStream = s.outStream)

/-- R86, R87, R106: a step delivers at most one RSP word; each has bits 31:4 zero and a status among OK, InvalidInputLength,
EndOfStream, ReseedRequired, NotInstantiated and IllegalCommand; STATUS 4, RangeError, is never delivered. -/
def Obligations.RangeErrorIsNeverDelivered : Prop :=
  ∀ s t : State, step s = .next t →
    ∃ new : List RspWord, t.rspWords = s.rspWords ++ new ∧ new.length ≤ 1 ∧
      ∀ w ∈ new, w.extractLsb' 4 28 = 0#28 ∧ w.toNat ∈ [0, 1, 2, 3, 5, 6]

/-! ### The two levels -/

/-- R196: the two levels agree. From IDLE with every latch zero (R187 c), with a command offered and no reset coming, the
phase machine run for the acceptance and the steps R174 counts ends in exactly the state the command level gives in one
step: registers, latches, ports, the host's observations and the cipher's transactions. (R196 asks besides for `CK = KEY`
or `RC = 0`; both levels encrypt under CK, so the statement holds without it.) -/
def Obligations.PhaseMachineRefinesCommandLevel : Prop :=
  ∀ (s : State) (w : CmdWord) (i : Instr), s.level = .fsm → s.phase = .idle → s.resetIn = [] →
    s.opl = 0 → s.bitsrem = 0 → s.seedl = 0 → s.temp = 0 → s.tlen = 0 →
    s.cmd = some w → decodeCmd w = .ok i →
    run (1 + stepsAfterAcceptance hw w s.rc) s = exec i s

/-- R174: the phases a command runs after its acceptance, in order: INST_ZERO and the update FSM for INSTANTIATE, the
update FSM for RESEED, GEN_INCR and GEN_ENC `ceil(L / 128)` times and the update FSM for GENERATE, none for a failed or an
illegal command; and the sequencer is back in IDLE after exactly that many steps. -/
def Obligations.PhaseSequences : Prop :=
  ∀ (s : State) (w : CmdWord), s.level = .fsm → s.phase = .idle → s.resetIn = [] → s.cmd = some w →
    (phasesAfterAcceptance hw w s.rc).length = stepsAfterAcceptance hw w s.rc ∧
    phaseTrace (1 + stepsAfterAcceptance hw w s.rc) s = .idle :: phasesAfterAcceptance hw w s.rc ∧
    ∃ t, run (1 + stepsAfterAcceptance hw w s.rc) s = .next t ∧ t.phase = .idle

/-- R197: termination. From every busy state that meets the invariant, with no reset coming, the sequencer is back in IDLE
after at most `2 * 2^25 + 7` steps, and the command in progress has delivered its one RSP word, STATUS OK. It
rests on the assumption of R197, U16 and U17 that OUT always accepts a byte and that the cipher always answers: log entry
12. -/
def Obligations.EveryAcceptedCommandFinishes : Prop :=
  ∀ s : State, s.Inv → s.phase ≠ .idle → s.resetIn = [] →
    ∃ n t, 1 ≤ n ∧ n ≤ 2 * 2 ^ 25 + 7 ∧ run n s = .next t ∧ t.phase = .idle ∧ t.rspWords = s.rspWords ++ [0]

/-- R231, R243, U11: a command that is cut short has already written to OUT a leading part of what it would have written:
after any number of steps of the phase machine up to the command's last, the OUT stream so far is a beginning of the OUT
stream the command level gives for the whole command. -/
def Obligations.InterruptedOutputIsAPrefix : Prop :=
  ∀ (s t : State) (w : CmdWord) (i : Instr) (n : Nat), s.level = .fsm → s.phase = .idle → s.resetIn = [] →
    s.opl = 0 → s.bitsrem = 0 → s.seedl = 0 → s.temp = 0 → s.tlen = 0 →
    s.cmd = some w → decodeCmd w = .ok i → n ≤ 1 + stepsAfterAcceptance hw w s.rc → run n s = .next t →
    ∃ u rest, exec i s = .next u ∧ u.outStream = t.outStream ++ rest
end

