-- ==== Sys2Proof/Laws/Bytes.lean ====
section
/-! SUPPORT. Byte strings: lengths, the round trips between integers and bytes, concatenation, and the byte-wise
exclusive or as an exclusive or of registers (R14, R15). -/

namespace Sys2Proof.Machine

/-! ### Lengths -/

@[simp] theorem length_beBytes (v k : Nat) : (beBytes v k).length = k := by
  induction k generalizing v with
  | zero => rfl
  | succ k ih => simp [beBytes, ih]

@[simp] theorem length_blockBytes (b : Block) : (blockBytes b).length = 16 := length_beBytes _ _

@[simp] theorem length_seedBytes (w : SeedWord) : (seedBytes w).length = 32 := length_beBytes _ _

@[simp] theorem length_zeroBytes (k : Nat) : (zeroBytes k).length = k := by simp [zeroBytes]

@[simp] theorem length_xorBytes (A B : List Byte) : (xorBytes A B).length = min A.length B.length := by
  simp [xorBytes]

/-! ### Integers and bytes -/

@[simp] theorem beInt_nil : beInt [] = 0 := rfl

theorem beInt_snoc (B : List Byte) (b : Byte) : beInt (B ++ [b]) = 256 * beInt B + b.toNat := by
  simp [beInt]

theorem beInt_append (A B : List Byte) : beInt (A ++ B) = beInt A * 256 ^ B.length + beInt B := by
  induction B using List.reverseRecOn with
  | nil => simp
  | append_singleton B b ih =>
    rw [← List.append_assoc, beInt_snoc, ih, beInt_snoc, List.length_append, List.length_singleton, pow_succ]
    ring

theorem beInt_lt (B : List Byte) : beInt B < 256 ^ B.length := by
  induction B using List.reverseRecOn with
  | nil => simp
  | append_singleton B b ih =>
    rw [beInt_snoc, List.length_append, List.length_singleton, pow_succ]
    have := b.isLt
    omega

/-- `be_int(be_bytes(v, k))` is `v` cut to `k` bytes (R14). -/
theorem beInt_beBytes (v k : Nat) : beInt (beBytes v k) = v % 256 ^ k := by
  induction k generalizing v with
  | zero => simp [beBytes, Nat.mod_one]
  | succ k ih =>
    rw [beBytes, beInt_snoc, ih, pow_succ', Nat.mod_mul, BitVec.toNat_ofNat]
    omega

/-- `be_bytes(be_int(B), len(B)) = B` (R14). -/
theorem beBytes_beInt (B : List Byte) : beBytes (beInt B) B.length = B := by
  induction B using List.reverseRecOn with
  | nil => rfl
  | append_singleton B b ih =>
    have hb := b.isLt
    have hdiv : (256 * beInt B + b.toNat) / 256 = beInt B := by omega
    have hlow : BitVec.ofNat 8 (256 * beInt B + b.toNat) = b := by
      apply BitVec.eq_of_toNat_eq
      rw [BitVec.toNat_ofNat]
      omega
    rw [List.length_append, List.length_singleton, beBytes, beInt_snoc, hdiv, ih, hlow]

/-- Byte strings of one length with one integer are one string (R14). -/
theorem eq_of_beInt_eq {A B : List Byte} (hlen : A.length = B.length) (h : beInt A = beInt B) : A = B := by
  rw [← beBytes_beInt A, ← beBytes_beInt B, h, hlen]

/-! ### Registers and bytes (R15) -/

@[simp] theorem blockOf_blockBytes (b : Block) : blockOf (blockBytes b) = b := by
  apply BitVec.eq_of_toNat_eq
  have := b.isLt
  simp only [blockOf, blockBytes, beInt_beBytes, BitVec.toNat_ofNat]
  omega

theorem blockBytes_blockOf {B : List Byte} (h : B.length = 16) : blockBytes (blockOf B) = B := by
  have hlt := beInt_lt B
  rw [h] at hlt
  rw [blockBytes, blockOf, BitVec.toNat_ofNat, Nat.mod_eq_of_lt (by simpa using hlt), ← h, beBytes_beInt]

theorem beInt_blockBytes (b : Block) : beInt (blockBytes b) = b.toNat := by
  have := b.isLt
  rw [blockBytes, beInt_beBytes]
  omega

theorem beInt_seedBytes (w : SeedWord) : beInt (seedBytes w) = w.toNat := by
  have := w.isLt
  rw [seedBytes, beInt_beBytes]
  omega

/-- The 32 bytes of a seed word are its two halves (R89). -/
theorem seedBytes_eq_halves (w : SeedWord) : seedBytes w = blockBytes (tempHigh w) ++ blockBytes (tempLow w) := by
  apply eq_of_beInt_eq (by simp)
  have := w.isLt
  rw [beInt_append, beInt_seedBytes, beInt_blockBytes, beInt_blockBytes, length_blockBytes]
  simp only [tempHigh, tempLow, BitVec.extractLsb'_toNat, Nat.shiftRight_eq_div_pow]
  omega

/-! ### Exclusive or -/

theorem xorBytes_append {A B C D : List Byte} (h : A.length = C.length) :
    xorBytes (A ++ B) (C ++ D) = xorBytes A C ++ xorBytes B D := by
  simp [xorBytes, List.zipWith_append h]

/-- The byte-wise exclusive or is the exclusive or of the integers (R124, R183). -/
theorem beInt_xorBytes {A B : List Byte} (h : A.length = B.length) : beInt (xorBytes A B) = beInt A ^^^ beInt B := by
  induction A using List.reverseRecOn generalizing B with
  | nil =>
    have : B = [] := List.length_eq_zero_iff.mp (by simpa using h.symm)
    subst this; rfl
  | append_singleton A a ih =>
    obtain ⟨B, b, rfl⟩ : ∃ B' b, B = B' ++ [b] := by
      refine ⟨B.dropLast, B.getLast ?_, (List.dropLast_append_getLast _).symm⟩
      rintro rfl
      simp at h
    have hlen : A.length = B.length := by simpa using h
    have key : ∀ x y : Nat, ∀ c d : Byte, (256 * x + c.toNat) ^^^ (256 * y + d.toNat) = 256 * (x ^^^ y) + (c ^^^ d).toNat := by
      intro x y c d
      rw [BitVec.toNat_xor]
      have hc := c.isLt
      have hd := d.isLt
      have e := Nat.xor_mod_two_pow (a := 256 * x + c.toNat) (b := 256 * y + d.toNat) (n := 8)
      have f := Nat.xor_div_two_pow (a := 256 * x + c.toNat) (b := 256 * y + d.toNat) (n := 8)
      have hx : (256 * x + c.toNat) % 2 ^ 8 = c.toNat := by omega
      have hy : (256 * y + d.toNat) % 2 ^ 8 = d.toNat := by omega
      have hx' : (256 * x + c.toNat) / 2 ^ 8 = x := by omega
      have hy' : (256 * y + d.toNat) / 2 ^ 8 = y := by omega
      rw [hx, hy] at e
      rw [hx', hy'] at f
      omega
    rw [xorBytes_append hlen, show xorBytes [a] [b] = [a ^^^ b] from rfl, beInt_snoc, ih hlen, beInt_snoc, beInt_snoc, key]

theorem blockOf_xorBytes {A B : List Byte} (h : A.length = B.length) :
    blockOf (xorBytes A B) = blockOf A ^^^ blockOf B := by
  rw [blockOf, beInt_xorBytes h, blockOf, blockOf, BitVec.ofNat_xor]

theorem xorBytes_blockBytes (a b : Block) : xorBytes (blockBytes a) (blockBytes b) = blockBytes (a ^^^ b) := by
  have h : (xorBytes (blockBytes a) (blockBytes b)).length = 16 := by simp
  rw [← blockBytes_blockOf h, blockOf_xorBytes (by simp), blockOf_blockBytes, blockOf_blockBytes]

/-- `zero(16)` as a register (R34). -/
theorem zeroBytes_16 : zeroBytes 16 = blockBytes 0 := by decide

/-- `zero(32)` as two registers. -/
theorem zeroBytes_32 : zeroBytes 32 = blockBytes 0 ++ blockBytes 0 := by decide

/-! ### TEMP by halves (R182) -/

@[simp] theorem tempHigh_append (a b : Block) : tempHigh (a ++ b) = a := by
  ext i hi
  simp only [tempHigh, BitVec.getElem_extractLsb', BitVec.getLsbD_append]
  simp [show ¬(128 + i < 128) by omega, hi]

@[simp] theorem tempLow_append (a b : Block) : tempLow (a ++ b) = b := by
  ext i hi
  simp only [tempLow, BitVec.getElem_extractLsb', BitVec.getLsbD_append]
  simp [hi]

@[simp] theorem tempHigh_xor (a b : SeedWord) : tempHigh (a ^^^ b) = tempHigh a ^^^ tempHigh b := by
  ext i hi; simp [tempHigh]

@[simp] theorem tempLow_xor (a b : SeedWord) : tempLow (a ^^^ b) = tempLow a ^^^ tempLow b := by
  ext i hi; simp [tempLow]

@[simp] theorem tempHigh_zero : tempHigh 0#256 = 0#128 := by decide

@[simp] theorem tempLow_zero : tempLow 0#256 = 0#128 := by decide

/-- A TEMP word is its two halves. -/
theorem tempHigh_append_tempLow (t : SeedWord) : tempHigh t ++ tempLow t = t := by
  ext i hi
  simp only [tempHigh, tempLow, BitVec.getElem_append, BitVec.getElem_extractLsb']
  split
  · simp [BitVec.getLsbD_eq_getElem hi]
  · simp [show 128 + (i - 128) = i by omega, BitVec.getLsbD_eq_getElem hi]

end Sys2Proof.Machine
end

