-- ==== Sys2Proof/Laws/Decode.lean ====
section
/-! SUPPORT. The fields of a CMD word as parts of its number (R81), and the word made of given fields. -/

namespace Sys2Proof

theorem cmdOp_toNat (w : CmdWord) : (cmdOp w).toNat = w.toNat % 16 := by
  simp [cmdOp, BitVec.extractLsb'_toNat]

theorem cmdEos_eq (w : CmdWord) : cmdEos w = decide (w.toNat / 16 % 2 = 1) := by
  simp [cmdEos, BitVec.getLsbD, Nat.testBit_eq_decide_div_mod_eq]

theorem cmdRsv_toNat (w : CmdWord) : (cmdRsv w).toNat = w.toNat / 32 % 2 ^ 27 := by
  simp [cmdRsv, BitVec.extractLsb'_toNat, Nat.shiftRight_eq_div_pow]

theorem cmdLen_eq (w : CmdWord) : cmdLen w = w.toNat / 2 ^ 32 := by
  have := w.isLt
  simp only [cmdLen, BitVec.extractLsb'_toNat, Nat.shiftRight_eq_div_pow]
  omega

theorem cmdLen_lt (w : CmdWord) : cmdLen w < 2 ^ 32 := (w.extractLsb' 32 32).isLt

theorem toNat_cmdWord (op : BitVec 4) (eos : Bool) {len : Nat} (h : len < 2 ^ 32) :
    (cmdWord op eos len).toNat = len * 2 ^ 32 + eos.toNat * 16 + op.toNat := by
  have ho := op.isLt
  have he := Bool.toNat_lt eos
  simp only [cmdWord, BitVec.toNat_append, BitVec.toNat_ofNat, BitVec.toNat_ofBool]
  rw [← Nat.shiftLeft_add_eq_or_of_lt (by omega), ← Nat.shiftLeft_add_eq_or_of_lt (by omega),
    ← Nat.shiftLeft_add_eq_or_of_lt (by omega)]
  simp only [Nat.shiftLeft_eq]
  omega

@[simp] theorem cmdOp_cmdWord (op : BitVec 4) (eos : Bool) {len : Nat} (h : len < 2 ^ 32) :
    cmdOp (cmdWord op eos len) = op := by
  apply BitVec.eq_of_toNat_eq
  have := op.isLt
  rw [cmdOp_toNat, toNat_cmdWord _ _ h]
  omega

@[simp] theorem cmdEos_cmdWord (op : BitVec 4) (eos : Bool) {len : Nat} (h : len < 2 ^ 32) :
    cmdEos (cmdWord op eos len) = eos := by
  have := op.isLt
  rw [cmdEos_eq, toNat_cmdWord _ _ h]
  cases eos <;> simp <;> omega

@[simp] theorem cmdRsv_cmdWord (op : BitVec 4) (eos : Bool) {len : Nat} (h : len < 2 ^ 32) :
    cmdRsv (cmdWord op eos len) = 0 := by
  apply BitVec.eq_of_toNat_eq
  have := op.isLt
  have := Bool.toNat_lt eos
  rw [cmdRsv_toNat, toNat_cmdWord _ _ h]
  simp; omega

@[simp] theorem cmdLen_cmdWord (op : BitVec 4) (eos : Bool) {len : Nat} (h : len < 2 ^ 32) :
    cmdLen (cmdWord op eos len) = len := by
  have := op.isLt
  have := Bool.toNat_lt eos
  rw [cmdLen_eq, toNat_cmdWord _ _ h]
  omega

/-- A word whose reserved bits are zero is the word of its fields. -/
theorem cmdWord_of_fields {w : CmdWord} (h : cmdRsv w = 0) : cmdWord (cmdOp w) (cmdEos w) (cmdLen w) = w := by
  apply BitVec.eq_of_toNat_eq
  have hr := congrArg BitVec.toNat h
  rw [cmdRsv_toNat] at hr
  rw [toNat_cmdWord _ _ (cmdLen_lt w), cmdOp_toNat, cmdLen_eq, cmdEos_eq]
  by_cases he : w.toNat / 16 % 2 = 1 <;> simp [he] at hr ⊢ <;> omega

/-! ### The opcode map (R93) -/

/-- Bits 3:0 and 31:5 of a word against an opcode: the mask of INSTANTIATE and RESEED. -/
theorem and_seedMask_eq (w : CmdWord) (op : BitVec 4) :
    w &&& 0x00000000FFFFFFEF#64 = op.zeroExtend 64 ↔ cmdOp w = op ∧ cmdRsv w = 0 := by
  constructor
  · intro h
    have bit : ∀ i, i < 64 → (w.getLsbD i && (0x00000000FFFFFFEF#64).getLsbD i) = (op.zeroExtend 64).getLsbD i := by
      intro i hi
      rw [← BitVec.getLsbD_and, h]
    constructor
    · apply BitVec.eq_of_getLsbD_eq
      intro i hi
      have := bit i (by omega)
      interval_cases i <;> simpa [cmdOp] using this
    · apply BitVec.eq_of_getLsbD_eq
      intro i hi
      have := bit (5 + i) (by omega)
      interval_cases i <;> simpa [cmdRsv] using this
  · rintro ⟨rfl, h⟩
    apply BitVec.eq_of_getLsbD_eq
    intro i hi
    have bit : ∀ j, j < 27 → w.getLsbD (5 + j) = false := by
      intro j hj
      have := congrArg (fun r => BitVec.getLsbD r j) h
      simpa [cmdRsv, hj] using this
    rcases Nat.lt_or_ge i 5 with h5 | h5
    · interval_cases i <;> simp [cmdOp]
    · have ho : (cmdOp w).getLsbD i = false := BitVec.getLsbD_of_ge _ _ (by omega)
      rcases Nat.lt_or_ge i 32 with h32 | h32
      · have := bit (i - 5) (by omega)
        rw [show 5 + (i - 5) = i by omega] at this
        simp [this, ho]
      · have hm : (0x00000000FFFFFFEF#64).getLsbD i = false := by interval_cases i <;> rfl
        simp only [BitVec.getLsbD_and, hm, Bool.and_false]
        simp [ho]

theorem selects_iff (r : CmdRow) (w : CmdWord) : r.selects w = true ↔ w &&& r.mask = r.pattern := decide_eq_true_iff

theorem selects_instantiateRow (w : CmdWord) : instantiateRow.selects w = true ↔ cmdOp w = 1 ∧ cmdRsv w = 0 :=
  (selects_iff _ w).trans (and_seedMask_eq w 1)

theorem selects_reseedRow (w : CmdWord) : reseedRow.selects w = true ↔ cmdOp w = 2 ∧ cmdRsv w = 0 :=
  (selects_iff _ w).trans (and_seedMask_eq w 2)

theorem selects_generateRow (w : CmdWord) :
    generateRow.selects w = true ↔ cmdOp w = 3 ∧ cmdEos w = false ∧ cmdRsv w = 0 := by
  have split : w &&& 0x00000000FFFFFFFF#64 = 3 ↔ w &&& 0x00000000FFFFFFEF#64 = 3 ∧ cmdEos w = false := by
    constructor
    · intro h
      refine ⟨?_, ?_⟩
      · rw [show (0x00000000FFFFFFEF#64) = 0x00000000FFFFFFFF#64 &&& 0x00000000FFFFFFEF#64 from rfl, ← BitVec.and_assoc, h]
        rfl
      · have := congrArg (fun r => BitVec.getLsbD r 4) h
        simpa [cmdEos] using this
    · rintro ⟨h, he⟩
      apply BitVec.eq_of_getLsbD_eq
      intro i hi
      have bit := congrArg (fun r => BitVec.getLsbD r i) h
      by_cases h4 : i = 4
      · subst h4
        simpa [cmdEos] using he
      · rw [← bit]
        simp only [BitVec.getLsbD_and]
        congr 1
        interval_cases i <;> first | rfl | exact absurd rfl h4
  have row : w &&& 0x00000000FFFFFFEF#64 = 3 ↔ cmdOp w = 3 ∧ cmdRsv w = 0 := and_seedMask_eq w 3
  refine (selects_iff _ w).trans (split.trans ?_)
  rw [row]
  tauto

/-! ### What a word that decodes is -/

theorem decodeCmd_cases {w : CmdWord} {i : Instr} (h : decodeCmd w = .ok i) :
    cmdRsv w = 0 ∧
      (cmdOp w = 1 ∧ i = .instantiate (cmdEos w) (cmdLen w) ∨ cmdOp w = 2 ∧ i = .reseed (cmdEos w) (cmdLen w) ∨
        cmdOp w = 3 ∧ cmdEos w = false ∧ i = .generate (cmdLen w)) := by
  unfold decodeCmd at h
  split_ifs at h with hr h1 h2 h3 he <;> obtain rfl := Except.ok.inj h
  · exact ⟨not_not.mp hr, .inl ⟨h1, rfl⟩⟩
  · exact ⟨not_not.mp hr, .inr (.inl ⟨h2, rfl⟩)⟩
  · exact ⟨not_not.mp hr, .inr (.inr ⟨h3, by simpa using he, rfl⟩)⟩

end Sys2Proof
end

