-- ==== Sys2Proof/Laws/State.lean ====
section
/-! SUPPORT. What each named operation does to each field of the state: one lemma per field per operation, so that no
proof unfolds a record update. -/

namespace Sys2Proof.Machine

/-! ### nextOffer -/

theorem nextOffer_nil (s : State) (h : s.offers = []) : s.nextOffer = { s with cmd := none } := by
  simp [State.nextOffer, h]

theorem nextOffer_cons (s : State) (o : Offer) (rest : List Offer) (h : s.offers = o :: rest) :
    s.nextOffer = { s with cmd := some o.cmd, seedw := o.seedw, offers := rest } := by
  simp [State.nextOffer, h]

@[simp] theorem nextOffer_key (s : State) : s.nextOffer.key = s.key := by
  unfold State.nextOffer; split <;> rfl
@[simp] theorem nextOffer_v (s : State) : s.nextOffer.v = s.v := by
  unfold State.nextOffer; split <;> rfl
@[simp] theorem nextOffer_rc (s : State) : s.nextOffer.rc = s.rc := by
  unfold State.nextOffer; split <;> rfl
@[simp] theorem nextOffer_ck (s : State) : s.nextOffer.ck = s.ck := by
  unfold State.nextOffer; split <;> rfl
@[simp] theorem nextOffer_phase (s : State) : s.nextOffer.phase = s.phase := by
  unfold State.nextOffer; split <;> rfl
@[simp] theorem nextOffer_opl (s : State) : s.nextOffer.opl = s.opl := by
  unfold State.nextOffer; split <;> rfl
@[simp] theorem nextOffer_bitsrem (s : State) : s.nextOffer.bitsrem = s.bitsrem := by
  unfold State.nextOffer; split <;> rfl
@[simp] theorem nextOffer_seedl (s : State) : s.nextOffer.seedl = s.seedl := by
  unfold State.nextOffer; split <;> rfl
@[simp] theorem nextOffer_temp (s : State) : s.nextOffer.temp = s.temp := by
  unfold State.nextOffer; split <;> rfl
@[simp] theorem nextOffer_tlen (s : State) : s.nextOffer.tlen = s.tlen := by
  unfold State.nextOffer; split <;> rfl
@[simp] theorem nextOffer_resetIn (s : State) : s.nextOffer.resetIn = s.resetIn := by
  unfold State.nextOffer; split <;> rfl
@[simp] theorem nextOffer_obs (s : State) : s.nextOffer.obs = s.obs := by
  unfold State.nextOffer; split <;> rfl
@[simp] theorem nextOffer_ciph (s : State) : s.nextOffer.ciph = s.ciph := by
  unfold State.nextOffer; split <;> rfl
@[simp] theorem nextOffer_level (s : State) : s.nextOffer.level = s.level := by
  unfold State.nextOffer; split <;> rfl
@[simp] theorem nextOffer_resets (s : State) : s.nextOffer.resets = s.resets := by
  unfold State.nextOffer; split <;> rfl

/-! ### goto -/

@[simp] theorem goto_key (s : State) (p : Phase) : (s.goto p).key = s.key := rfl
@[simp] theorem goto_v (s : State) (p : Phase) : (s.goto p).v = s.v := rfl
@[simp] theorem goto_rc (s : State) (p : Phase) : (s.goto p).rc = s.rc := rfl
@[simp] theorem goto_ck (s : State) (p : Phase) : (s.goto p).ck = s.ck := rfl
@[simp] theorem goto_phase (s : State) (p : Phase) : (s.goto p).phase = p := rfl
@[simp] theorem goto_opl (s : State) (p : Phase) : (s.goto p).opl = s.opl := rfl
@[simp] theorem goto_bitsrem (s : State) (p : Phase) : (s.goto p).bitsrem = s.bitsrem := rfl
@[simp] theorem goto_seedl (s : State) (p : Phase) : (s.goto p).seedl = s.seedl := rfl
@[simp] theorem goto_temp (s : State) (p : Phase) : (s.goto p).temp = s.temp := rfl
@[simp] theorem goto_tlen (s : State) (p : Phase) : (s.goto p).tlen = s.tlen := rfl
@[simp] theorem goto_cmd (s : State) (p : Phase) : (s.goto p).cmd = s.cmd := rfl
@[simp] theorem goto_seedw (s : State) (p : Phase) : (s.goto p).seedw = s.seedw := rfl
@[simp] theorem goto_offers (s : State) (p : Phase) : (s.goto p).offers = s.offers := rfl
@[simp] theorem goto_resetIn (s : State) (p : Phase) : (s.goto p).resetIn = s.resetIn := rfl
@[simp] theorem goto_obs (s : State) (p : Phase) : (s.goto p).obs = s.obs := rfl
@[simp] theorem goto_ciph (s : State) (p : Phase) : (s.goto p).ciph = s.ciph := rfl
@[simp] theorem goto_level (s : State) (p : Phase) : (s.goto p).level = s.level := rfl
@[simp] theorem goto_resets (s : State) (p : Phase) : (s.goto p).resets = s.resets := rfl

/-! ### setKey -/

@[simp] theorem setKey_key (s : State) (k : Block) : (s.setKey k).key = k := rfl
@[simp] theorem setKey_v (s : State) (k : Block) : (s.setKey k).v = s.v := rfl
@[simp] theorem setKey_rc (s : State) (k : Block) : (s.setKey k).rc = s.rc := rfl
@[simp] theorem setKey_ck (s : State) (k : Block) : (s.setKey k).ck = s.ck := rfl
@[simp] theorem setKey_phase (s : State) (k : Block) : (s.setKey k).phase = s.phase := rfl
@[simp] theorem setKey_opl (s : State) (k : Block) : (s.setKey k).opl = s.opl := rfl
@[simp] theorem setKey_bitsrem (s : State) (k : Block) : (s.setKey k).bitsrem = s.bitsrem := rfl
@[simp] theorem setKey_seedl (s : State) (k : Block) : (s.setKey k).seedl = s.seedl := rfl
@[simp] theorem setKey_temp (s : State) (k : Block) : (s.setKey k).temp = s.temp := rfl
@[simp] theorem setKey_tlen (s : State) (k : Block) : (s.setKey k).tlen = s.tlen := rfl
@[simp] theorem setKey_cmd (s : State) (k : Block) : (s.setKey k).cmd = s.cmd := rfl
@[simp] theorem setKey_seedw (s : State) (k : Block) : (s.setKey k).seedw = s.seedw := rfl
@[simp] theorem setKey_offers (s : State) (k : Block) : (s.setKey k).offers = s.offers := rfl
@[simp] theorem setKey_resetIn (s : State) (k : Block) : (s.setKey k).resetIn = s.resetIn := rfl
@[simp] theorem setKey_obs (s : State) (k : Block) : (s.setKey k).obs = s.obs := rfl
@[simp] theorem setKey_ciph (s : State) (k : Block) : (s.setKey k).ciph = s.ciph := rfl
@[simp] theorem setKey_level (s : State) (k : Block) : (s.setKey k).level = s.level := rfl
@[simp] theorem setKey_resets (s : State) (k : Block) : (s.setKey k).resets = s.resets := rfl

/-! ### setV -/

@[simp] theorem setV_key (s : State) (x : Block) : (s.setV x).key = s.key := rfl
@[simp] theorem setV_v (s : State) (x : Block) : (s.setV x).v = x := rfl
@[simp] theorem setV_rc (s : State) (x : Block) : (s.setV x).rc = s.rc := rfl
@[simp] theorem setV_ck (s : State) (x : Block) : (s.setV x).ck = s.ck := rfl
@[simp] theorem setV_phase (s : State) (x : Block) : (s.setV x).phase = s.phase := rfl
@[simp] theorem setV_opl (s : State) (x : Block) : (s.setV x).opl = s.opl := rfl
@[simp] theorem setV_bitsrem (s : State) (x : Block) : (s.setV x).bitsrem = s.bitsrem := rfl
@[simp] theorem setV_seedl (s : State) (x : Block) : (s.setV x).seedl = s.seedl := rfl
@[simp] theorem setV_temp (s : State) (x : Block) : (s.setV x).temp = s.temp := rfl
@[simp] theorem setV_tlen (s : State) (x : Block) : (s.setV x).tlen = s.tlen := rfl
@[simp] theorem setV_cmd (s : State) (x : Block) : (s.setV x).cmd = s.cmd := rfl
@[simp] theorem setV_seedw (s : State) (x : Block) : (s.setV x).seedw = s.seedw := rfl
@[simp] theorem setV_offers (s : State) (x : Block) : (s.setV x).offers = s.offers := rfl
@[simp] theorem setV_resetIn (s : State) (x : Block) : (s.setV x).resetIn = s.resetIn := rfl
@[simp] theorem setV_obs (s : State) (x : Block) : (s.setV x).obs = s.obs := rfl
@[simp] theorem setV_ciph (s : State) (x : Block) : (s.setV x).ciph = s.ciph := rfl
@[simp] theorem setV_level (s : State) (x : Block) : (s.setV x).level = s.level := rfl
@[simp] theorem setV_resets (s : State) (x : Block) : (s.setV x).resets = s.resets := rfl

/-! ### setRc -/

@[simp] theorem setRc_key (s : State) (n : BitVec 32) : (s.setRc n).key = s.key := rfl
@[simp] theorem setRc_v (s : State) (n : BitVec 32) : (s.setRc n).v = s.v := rfl
@[simp] theorem setRc_rc (s : State) (n : BitVec 32) : (s.setRc n).rc = n := rfl
@[simp] theorem setRc_ck (s : State) (n : BitVec 32) : (s.setRc n).ck = s.ck := rfl
@[simp] theorem setRc_phase (s : State) (n : BitVec 32) : (s.setRc n).phase = s.phase := rfl
@[simp] theorem setRc_opl (s : State) (n : BitVec 32) : (s.setRc n).opl = s.opl := rfl
@[simp] theorem setRc_bitsrem (s : State) (n : BitVec 32) : (s.setRc n).bitsrem = s.bitsrem := rfl
@[simp] theorem setRc_seedl (s : State) (n : BitVec 32) : (s.setRc n).seedl = s.seedl := rfl
@[simp] theorem setRc_temp (s : State) (n : BitVec 32) : (s.setRc n).temp = s.temp := rfl
@[simp] theorem setRc_tlen (s : State) (n : BitVec 32) : (s.setRc n).tlen = s.tlen := rfl
@[simp] theorem setRc_cmd (s : State) (n : BitVec 32) : (s.setRc n).cmd = s.cmd := rfl
@[simp] theorem setRc_seedw (s : State) (n : BitVec 32) : (s.setRc n).seedw = s.seedw := rfl
@[simp] theorem setRc_offers (s : State) (n : BitVec 32) : (s.setRc n).offers = s.offers := rfl
@[simp] theorem setRc_resetIn (s : State) (n : BitVec 32) : (s.setRc n).resetIn = s.resetIn := rfl
@[simp] theorem setRc_obs (s : State) (n : BitVec 32) : (s.setRc n).obs = s.obs := rfl
@[simp] theorem setRc_ciph (s : State) (n : BitVec 32) : (s.setRc n).ciph = s.ciph := rfl
@[simp] theorem setRc_level (s : State) (n : BitVec 32) : (s.setRc n).level = s.level := rfl
@[simp] theorem setRc_resets (s : State) (n : BitVec 32) : (s.setRc n).resets = s.resets := rfl

/-! ### incrV -/

@[simp] theorem incrV_key (s : State) : s.incrV.key = s.key := rfl
@[simp] theorem incrV_v (s : State) : s.incrV.v = s.v + 1 := rfl
@[simp] theorem incrV_rc (s : State) : s.incrV.rc = s.rc := rfl
@[simp] theorem incrV_ck (s : State) : s.incrV.ck = s.ck := rfl
@[simp] theorem incrV_phase (s : State) : s.incrV.phase = s.phase := rfl
@[simp] theorem incrV_opl (s : State) : s.incrV.opl = s.opl := rfl
@[simp] theorem incrV_bitsrem (s : State) : s.incrV.bitsrem = s.bitsrem := rfl
@[simp] theorem incrV_seedl (s : State) : s.incrV.seedl = s.seedl := rfl
@[simp] theorem incrV_temp (s : State) : s.incrV.temp = s.temp := rfl
@[simp] theorem incrV_tlen (s : State) : s.incrV.tlen = s.tlen := rfl
@[simp] theorem incrV_cmd (s : State) : s.incrV.cmd = s.cmd := rfl
@[simp] theorem incrV_seedw (s : State) : s.incrV.seedw = s.seedw := rfl
@[simp] theorem incrV_offers (s : State) : s.incrV.offers = s.offers := rfl
@[simp] theorem incrV_resetIn (s : State) : s.incrV.resetIn = s.resetIn := rfl
@[simp] theorem incrV_obs (s : State) : s.incrV.obs = s.obs := rfl
@[simp] theorem incrV_ciph (s : State) : s.incrV.ciph = s.ciph := rfl
@[simp] theorem incrV_level (s : State) : s.incrV.level = s.level := rfl
@[simp] theorem incrV_resets (s : State) : s.incrV.resets = s.resets := rfl

/-! ### setBitsrem -/

@[simp] theorem setBitsrem_key (s : State) (n : BitVec 32) : (s.setBitsrem n).key = s.key := rfl
@[simp] theorem setBitsrem_v (s : State) (n : BitVec 32) : (s.setBitsrem n).v = s.v := rfl
@[simp] theorem setBitsrem_rc (s : State) (n : BitVec 32) : (s.setBitsrem n).rc = s.rc := rfl
@[simp] theorem setBitsrem_ck (s : State) (n : BitVec 32) : (s.setBitsrem n).ck = s.ck := rfl
@[simp] theorem setBitsrem_phase (s : State) (n : BitVec 32) : (s.setBitsrem n).phase = s.phase := rfl
@[simp] theorem setBitsrem_opl (s : State) (n : BitVec 32) : (s.setBitsrem n).opl = s.opl := rfl
@[simp] theorem setBitsrem_bitsrem (s : State) (n : BitVec 32) : (s.setBitsrem n).bitsrem = n := rfl
@[simp] theorem setBitsrem_seedl (s : State) (n : BitVec 32) : (s.setBitsrem n).seedl = s.seedl := rfl
@[simp] theorem setBitsrem_temp (s : State) (n : BitVec 32) : (s.setBitsrem n).temp = s.temp := rfl
@[simp] theorem setBitsrem_tlen (s : State) (n : BitVec 32) : (s.setBitsrem n).tlen = s.tlen := rfl
@[simp] theorem setBitsrem_cmd (s : State) (n : BitVec 32) : (s.setBitsrem n).cmd = s.cmd := rfl
@[simp] theorem setBitsrem_seedw (s : State) (n : BitVec 32) : (s.setBitsrem n).seedw = s.seedw := rfl
@[simp] theorem setBitsrem_offers (s : State) (n : BitVec 32) : (s.setBitsrem n).offers = s.offers := rfl
@[simp] theorem setBitsrem_resetIn (s : State) (n : BitVec 32) : (s.setBitsrem n).resetIn = s.resetIn := rfl
@[simp] theorem setBitsrem_obs (s : State) (n : BitVec 32) : (s.setBitsrem n).obs = s.obs := rfl
@[simp] theorem setBitsrem_ciph (s : State) (n : BitVec 32) : (s.setBitsrem n).ciph = s.ciph := rfl
@[simp] theorem setBitsrem_level (s : State) (n : BitVec 32) : (s.setBitsrem n).level = s.level := rfl
@[simp] theorem setBitsrem_resets (s : State) (n : BitVec 32) : (s.setBitsrem n).resets = s.resets := rfl

/-! ### setTemp -/

@[simp] theorem setTemp_key (s : State) (t : SeedWord) (n : BitVec 6) : (s.setTemp t n).key = s.key := rfl
@[simp] theorem setTemp_v (s : State) (t : SeedWord) (n : BitVec 6) : (s.setTemp t n).v = s.v := rfl
@[simp] theorem setTemp_rc (s : State) (t : SeedWord) (n : BitVec 6) : (s.setTemp t n).rc = s.rc := rfl
@[simp] theorem setTemp_ck (s : State) (t : SeedWord) (n : BitVec 6) : (s.setTemp t n).ck = s.ck := rfl
@[simp] theorem setTemp_phase (s : State) (t : SeedWord) (n : BitVec 6) : (s.setTemp t n).phase = s.phase := rfl
@[simp] theorem setTemp_opl (s : State) (t : SeedWord) (n : BitVec 6) : (s.setTemp t n).opl = s.opl := rfl
@[simp] theorem setTemp_bitsrem (s : State) (t : SeedWord) (n : BitVec 6) : (s.setTemp t n).bitsrem = s.bitsrem := rfl
@[simp] theorem setTemp_seedl (s : State) (t : SeedWord) (n : BitVec 6) : (s.setTemp t n).seedl = s.seedl := rfl
@[simp] theorem setTemp_temp (s : State) (t : SeedWord) (n : BitVec 6) : (s.setTemp t n).temp = t := rfl
@[simp] theorem setTemp_tlen (s : State) (t : SeedWord) (n : BitVec 6) : (s.setTemp t n).tlen = n := rfl
@[simp] theorem setTemp_cmd (s : State) (t : SeedWord) (n : BitVec 6) : (s.setTemp t n).cmd = s.cmd := rfl
@[simp] theorem setTemp_seedw (s : State) (t : SeedWord) (n : BitVec 6) : (s.setTemp t n).seedw = s.seedw := rfl
@[simp] theorem setTemp_offers (s : State) (t : SeedWord) (n : BitVec 6) : (s.setTemp t n).offers = s.offers := rfl
@[simp] theorem setTemp_resetIn (s : State) (t : SeedWord) (n : BitVec 6) : (s.setTemp t n).resetIn = s.resetIn := rfl
@[simp] theorem setTemp_obs (s : State) (t : SeedWord) (n : BitVec 6) : (s.setTemp t n).obs = s.obs := rfl
@[simp] theorem setTemp_ciph (s : State) (t : SeedWord) (n : BitVec 6) : (s.setTemp t n).ciph = s.ciph := rfl
@[simp] theorem setTemp_level (s : State) (t : SeedWord) (n : BitVec 6) : (s.setTemp t n).level = s.level := rfl
@[simp] theorem setTemp_resets (s : State) (t : SeedWord) (n : BitVec 6) : (s.setTemp t n).resets = s.resets := rfl

/-! ### scrubUpdate -/

@[simp] theorem scrubUpdate_key (s : State) : s.scrubUpdate.key = s.key := rfl
@[simp] theorem scrubUpdate_v (s : State) : s.scrubUpdate.v = s.v := rfl
@[simp] theorem scrubUpdate_rc (s : State) : s.scrubUpdate.rc = s.rc := rfl
@[simp] theorem scrubUpdate_ck (s : State) : s.scrubUpdate.ck = s.ck := rfl
@[simp] theorem scrubUpdate_phase (s : State) : s.scrubUpdate.phase = s.phase := rfl
@[simp] theorem scrubUpdate_opl (s : State) : s.scrubUpdate.opl = s.opl := rfl
@[simp] theorem scrubUpdate_bitsrem (s : State) : s.scrubUpdate.bitsrem = s.bitsrem := rfl
@[simp] theorem scrubUpdate_seedl (s : State) : s.scrubUpdate.seedl = 0 := rfl
@[simp] theorem scrubUpdate_temp (s : State) : s.scrubUpdate.temp = 0 := rfl
@[simp] theorem scrubUpdate_tlen (s : State) : s.scrubUpdate.tlen = 0 := rfl
@[simp] theorem scrubUpdate_cmd (s : State) : s.scrubUpdate.cmd = s.cmd := rfl
@[simp] theorem scrubUpdate_seedw (s : State) : s.scrubUpdate.seedw = s.seedw := rfl
@[simp] theorem scrubUpdate_offers (s : State) : s.scrubUpdate.offers = s.offers := rfl
@[simp] theorem scrubUpdate_resetIn (s : State) : s.scrubUpdate.resetIn = s.resetIn := rfl
@[simp] theorem scrubUpdate_obs (s : State) : s.scrubUpdate.obs = s.obs := rfl
@[simp] theorem scrubUpdate_ciph (s : State) : s.scrubUpdate.ciph = s.ciph := rfl
@[simp] theorem scrubUpdate_level (s : State) : s.scrubUpdate.level = s.level := rfl
@[simp] theorem scrubUpdate_resets (s : State) : s.scrubUpdate.resets = s.resets := rfl

/-! ### scrubCommand -/

@[simp] theorem scrubCommand_key (s : State) : s.scrubCommand.key = s.key := rfl
@[simp] theorem scrubCommand_v (s : State) : s.scrubCommand.v = s.v := rfl
@[simp] theorem scrubCommand_rc (s : State) : s.scrubCommand.rc = s.rc := rfl
@[simp] theorem scrubCommand_ck (s : State) : s.scrubCommand.ck = s.ck := rfl
@[simp] theorem scrubCommand_phase (s : State) : s.scrubCommand.phase = s.phase := rfl
@[simp] theorem scrubCommand_opl (s : State) : s.scrubCommand.opl = 0 := rfl
@[simp] theorem scrubCommand_bitsrem (s : State) : s.scrubCommand.bitsrem = 0 := rfl
@[simp] theorem scrubCommand_seedl (s : State) : s.scrubCommand.seedl = s.seedl := rfl
@[simp] theorem scrubCommand_temp (s : State) : s.scrubCommand.temp = s.temp := rfl
@[simp] theorem scrubCommand_tlen (s : State) : s.scrubCommand.tlen = s.tlen := rfl
@[simp] theorem scrubCommand_cmd (s : State) : s.scrubCommand.cmd = s.cmd := rfl
@[simp] theorem scrubCommand_seedw (s : State) : s.scrubCommand.seedw = s.seedw := rfl
@[simp] theorem scrubCommand_offers (s : State) : s.scrubCommand.offers = s.offers := rfl
@[simp] theorem scrubCommand_resetIn (s : State) : s.scrubCommand.resetIn = s.resetIn := rfl
@[simp] theorem scrubCommand_obs (s : State) : s.scrubCommand.obs = s.obs := rfl
@[simp] theorem scrubCommand_ciph (s : State) : s.scrubCommand.ciph = s.ciph := rfl
@[simp] theorem scrubCommand_level (s : State) : s.scrubCommand.level = s.level := rfl
@[simp] theorem scrubCommand_resets (s : State) : s.scrubCommand.resets = s.resets := rfl

/-! ### memWriteOut -/

@[simp] theorem memWriteOut_key (s : State) (B : List Byte) : (s.memWriteOut B).key = s.key := rfl
@[simp] theorem memWriteOut_v (s : State) (B : List Byte) : (s.memWriteOut B).v = s.v := rfl
@[simp] theorem memWriteOut_rc (s : State) (B : List Byte) : (s.memWriteOut B).rc = s.rc := rfl
@[simp] theorem memWriteOut_ck (s : State) (B : List Byte) : (s.memWriteOut B).ck = s.ck := rfl
@[simp] theorem memWriteOut_phase (s : State) (B : List Byte) : (s.memWriteOut B).phase = s.phase := rfl
@[simp] theorem memWriteOut_opl (s : State) (B : List Byte) : (s.memWriteOut B).opl = s.opl := rfl
@[simp] theorem memWriteOut_bitsrem (s : State) (B : List Byte) : (s.memWriteOut B).bitsrem = s.bitsrem := rfl
@[simp] theorem memWriteOut_seedl (s : State) (B : List Byte) : (s.memWriteOut B).seedl = s.seedl := rfl
@[simp] theorem memWriteOut_temp (s : State) (B : List Byte) : (s.memWriteOut B).temp = s.temp := rfl
@[simp] theorem memWriteOut_tlen (s : State) (B : List Byte) : (s.memWriteOut B).tlen = s.tlen := rfl
@[simp] theorem memWriteOut_cmd (s : State) (B : List Byte) : (s.memWriteOut B).cmd = s.cmd := rfl
@[simp] theorem memWriteOut_seedw (s : State) (B : List Byte) : (s.memWriteOut B).seedw = s.seedw := rfl
@[simp] theorem memWriteOut_offers (s : State) (B : List Byte) : (s.memWriteOut B).offers = s.offers := rfl
@[simp] theorem memWriteOut_resetIn (s : State) (B : List Byte) : (s.memWriteOut B).resetIn = s.resetIn := rfl
@[simp] theorem memWriteOut_obs (s : State) (B : List Byte) : (s.memWriteOut B).obs = s.obs ++ B.map .out := rfl
@[simp] theorem memWriteOut_ciph (s : State) (B : List Byte) : (s.memWriteOut B).ciph = s.ciph := rfl
@[simp] theorem memWriteOut_level (s : State) (B : List Byte) : (s.memWriteOut B).level = s.level := rfl
@[simp] theorem memWriteOut_resets (s : State) (B : List Byte) : (s.memWriteOut B).resets = s.resets := rfl

/-! ### memWriteRsp -/

@[simp] theorem memWriteRsp_key (s : State) (w : RspWord) : (s.memWriteRsp w).key = s.key := rfl
@[simp] theorem memWriteRsp_v (s : State) (w : RspWord) : (s.memWriteRsp w).v = s.v := rfl
@[simp] theorem memWriteRsp_rc (s : State) (w : RspWord) : (s.memWriteRsp w).rc = s.rc := rfl
@[simp] theorem memWriteRsp_ck (s : State) (w : RspWord) : (s.memWriteRsp w).ck = s.ck := rfl
@[simp] theorem memWriteRsp_phase (s : State) (w : RspWord) : (s.memWriteRsp w).phase = s.phase := rfl
@[simp] theorem memWriteRsp_opl (s : State) (w : RspWord) : (s.memWriteRsp w).opl = s.opl := rfl
@[simp] theorem memWriteRsp_bitsrem (s : State) (w : RspWord) : (s.memWriteRsp w).bitsrem = s.bitsrem := rfl
@[simp] theorem memWriteRsp_seedl (s : State) (w : RspWord) : (s.memWriteRsp w).seedl = s.seedl := rfl
@[simp] theorem memWriteRsp_temp (s : State) (w : RspWord) : (s.memWriteRsp w).temp = s.temp := rfl
@[simp] theorem memWriteRsp_tlen (s : State) (w : RspWord) : (s.memWriteRsp w).tlen = s.tlen := rfl
@[simp] theorem memWriteRsp_cmd (s : State) (w : RspWord) : (s.memWriteRsp w).cmd = s.cmd := rfl
@[simp] theorem memWriteRsp_seedw (s : State) (w : RspWord) : (s.memWriteRsp w).seedw = s.seedw := rfl
@[simp] theorem memWriteRsp_offers (s : State) (w : RspWord) : (s.memWriteRsp w).offers = s.offers := rfl
@[simp] theorem memWriteRsp_resetIn (s : State) (w : RspWord) : (s.memWriteRsp w).resetIn = s.resetIn := rfl
@[simp] theorem memWriteRsp_obs (s : State) (w : RspWord) : (s.memWriteRsp w).obs = s.obs ++ [.rsp w] := rfl
@[simp] theorem memWriteRsp_ciph (s : State) (w : RspWord) : (s.memWriteRsp w).ciph = s.ciph := rfl
@[simp] theorem memWriteRsp_level (s : State) (w : RspWord) : (s.memWriteRsp w).level = s.level := rfl
@[simp] theorem memWriteRsp_resets (s : State) (w : RspWord) : (s.memWriteRsp w).resets = s.resets := rfl

/-! ### cipherRekey -/

@[simp] theorem cipherRekey_key (s : State) (k : Block) : (s.cipherRekey k).key = s.key := rfl
@[simp] theorem cipherRekey_v (s : State) (k : Block) : (s.cipherRekey k).v = s.v := rfl
@[simp] theorem cipherRekey_rc (s : State) (k : Block) : (s.cipherRekey k).rc = s.rc := rfl
@[simp] theorem cipherRekey_ck (s : State) (k : Block) : (s.cipherRekey k).ck = k := rfl
@[simp] theorem cipherRekey_phase (s : State) (k : Block) : (s.cipherRekey k).phase = s.phase := rfl
@[simp] theorem cipherRekey_opl (s : State) (k : Block) : (s.cipherRekey k).opl = s.opl := rfl
@[simp] theorem cipherRekey_bitsrem (s : State) (k : Block) : (s.cipherRekey k).bitsrem = s.bitsrem := rfl
@[simp] theorem cipherRekey_seedl (s : State) (k : Block) : (s.cipherRekey k).seedl = s.seedl := rfl
@[simp] theorem cipherRekey_temp (s : State) (k : Block) : (s.cipherRekey k).temp = s.temp := rfl
@[simp] theorem cipherRekey_tlen (s : State) (k : Block) : (s.cipherRekey k).tlen = s.tlen := rfl
@[simp] theorem cipherRekey_cmd (s : State) (k : Block) : (s.cipherRekey k).cmd = s.cmd := rfl
@[simp] theorem cipherRekey_seedw (s : State) (k : Block) : (s.cipherRekey k).seedw = s.seedw := rfl
@[simp] theorem cipherRekey_offers (s : State) (k : Block) : (s.cipherRekey k).offers = s.offers := rfl
@[simp] theorem cipherRekey_resetIn (s : State) (k : Block) : (s.cipherRekey k).resetIn = s.resetIn := rfl
@[simp] theorem cipherRekey_obs (s : State) (k : Block) : (s.cipherRekey k).obs = s.obs := rfl
@[simp] theorem cipherRekey_ciph (s : State) (k : Block) : (s.cipherRekey k).ciph = s.ciph ++ [.rekey k] := rfl
@[simp] theorem cipherRekey_level (s : State) (k : Block) : (s.cipherRekey k).level = s.level := rfl
@[simp] theorem cipherRekey_resets (s : State) (k : Block) : (s.cipherRekey k).resets = s.resets := rfl

/-! ### cipherEncrypt -/

@[simp] theorem cipherEncrypt_key (s : State) (cfg : Config) (x : Block) : (s.cipherEncrypt cfg x).key = s.key := rfl
@[simp] theorem cipherEncrypt_v (s : State) (cfg : Config) (x : Block) : (s.cipherEncrypt cfg x).v = s.v := rfl
@[simp] theorem cipherEncrypt_rc (s : State) (cfg : Config) (x : Block) : (s.cipherEncrypt cfg x).rc = s.rc := rfl
@[simp] theorem cipherEncrypt_ck (s : State) (cfg : Config) (x : Block) : (s.cipherEncrypt cfg x).ck = s.ck := rfl
@[simp] theorem cipherEncrypt_phase (s : State) (cfg : Config) (x : Block) :
    (s.cipherEncrypt cfg x).phase = s.phase := rfl
@[simp] theorem cipherEncrypt_opl (s : State) (cfg : Config) (x : Block) : (s.cipherEncrypt cfg x).opl = s.opl := rfl
@[simp] theorem cipherEncrypt_bitsrem (s : State) (cfg : Config) (x : Block) :
    (s.cipherEncrypt cfg x).bitsrem = s.bitsrem := rfl
@[simp] theorem cipherEncrypt_seedl (s : State) (cfg : Config) (x : Block) :
    (s.cipherEncrypt cfg x).seedl = s.seedl := rfl
@[simp] theorem cipherEncrypt_temp (s : State) (cfg : Config) (x : Block) :
    (s.cipherEncrypt cfg x).temp = s.temp := rfl
@[simp] theorem cipherEncrypt_tlen (s : State) (cfg : Config) (x : Block) :
    (s.cipherEncrypt cfg x).tlen = s.tlen := rfl
@[simp] theorem cipherEncrypt_cmd (s : State) (cfg : Config) (x : Block) : (s.cipherEncrypt cfg x).cmd = s.cmd := rfl
@[simp] theorem cipherEncrypt_seedw (s : State) (cfg : Config) (x : Block) :
    (s.cipherEncrypt cfg x).seedw = s.seedw := rfl
@[simp] theorem cipherEncrypt_offers (s : State) (cfg : Config) (x : Block) :
    (s.cipherEncrypt cfg x).offers = s.offers := rfl
@[simp] theorem cipherEncrypt_resetIn (s : State) (cfg : Config) (x : Block) :
    (s.cipherEncrypt cfg x).resetIn = s.resetIn := rfl
@[simp] theorem cipherEncrypt_obs (s : State) (cfg : Config) (x : Block) : (s.cipherEncrypt cfg x).obs = s.obs := rfl
@[simp] theorem cipherEncrypt_ciph (s : State) (cfg : Config) (x : Block) :
    (s.cipherEncrypt cfg x).ciph = s.ciph ++ [.encrypt x (cfg.E s.ck x)] := rfl
@[simp] theorem cipherEncrypt_level (s : State) (cfg : Config) (x : Block) :
    (s.cipherEncrypt cfg x).level = s.level := rfl
@[simp] theorem cipherEncrypt_resets (s : State) (cfg : Config) (x : Block) :
    (s.cipherEncrypt cfg x).resets = s.resets := rfl

/-! ### commitKeyV -/

@[simp] theorem commitKeyV_key (s : State) (k x : Block) : (s.commitKeyV k x).key = k := rfl
@[simp] theorem commitKeyV_v (s : State) (k x : Block) : (s.commitKeyV k x).v = x := rfl
@[simp] theorem commitKeyV_rc (s : State) (k x : Block) : (s.commitKeyV k x).rc = s.rc := rfl
@[simp] theorem commitKeyV_ck (s : State) (k x : Block) : (s.commitKeyV k x).ck = k := rfl
@[simp] theorem commitKeyV_phase (s : State) (k x : Block) : (s.commitKeyV k x).phase = s.phase := rfl
@[simp] theorem commitKeyV_opl (s : State) (k x : Block) : (s.commitKeyV k x).opl = s.opl := rfl
@[simp] theorem commitKeyV_bitsrem (s : State) (k x : Block) : (s.commitKeyV k x).bitsrem = s.bitsrem := rfl
@[simp] theorem commitKeyV_seedl (s : State) (k x : Block) : (s.commitKeyV k x).seedl = s.seedl := rfl
@[simp] theorem commitKeyV_temp (s : State) (k x : Block) : (s.commitKeyV k x).temp = s.temp := rfl
@[simp] theorem commitKeyV_tlen (s : State) (k x : Block) : (s.commitKeyV k x).tlen = s.tlen := rfl
@[simp] theorem commitKeyV_cmd (s : State) (k x : Block) : (s.commitKeyV k x).cmd = s.cmd := rfl
@[simp] theorem commitKeyV_seedw (s : State) (k x : Block) : (s.commitKeyV k x).seedw = s.seedw := rfl
@[simp] theorem commitKeyV_offers (s : State) (k x : Block) : (s.commitKeyV k x).offers = s.offers := rfl
@[simp] theorem commitKeyV_resetIn (s : State) (k x : Block) : (s.commitKeyV k x).resetIn = s.resetIn := rfl
@[simp] theorem commitKeyV_obs (s : State) (k x : Block) : (s.commitKeyV k x).obs = s.obs := rfl
@[simp] theorem commitKeyV_ciph (s : State) (k x : Block) : (s.commitKeyV k x).ciph = s.ciph ++ [.rekey k] := rfl
@[simp] theorem commitKeyV_level (s : State) (k x : Block) : (s.commitKeyV k x).level = s.level := rfl
@[simp] theorem commitKeyV_resets (s : State) (k x : Block) : (s.commitKeyV k x).resets = s.resets := rfl

/-! ### acceptOffer -/

@[simp] theorem acceptOffer_key (s : State) : s.acceptOffer.key = s.key := nextOffer_key s
@[simp] theorem acceptOffer_v (s : State) : s.acceptOffer.v = s.v := nextOffer_v s
@[simp] theorem acceptOffer_rc (s : State) : s.acceptOffer.rc = s.rc := nextOffer_rc s
@[simp] theorem acceptOffer_ck (s : State) : s.acceptOffer.ck = s.ck := nextOffer_ck s
@[simp] theorem acceptOffer_phase (s : State) : s.acceptOffer.phase = s.phase := nextOffer_phase s
@[simp] theorem acceptOffer_opl (s : State) : s.acceptOffer.opl = s.opl := nextOffer_opl s
@[simp] theorem acceptOffer_bitsrem (s : State) : s.acceptOffer.bitsrem = s.bitsrem := nextOffer_bitsrem s
@[simp] theorem acceptOffer_seedl (s : State) : s.acceptOffer.seedl = s.seedl := nextOffer_seedl s
@[simp] theorem acceptOffer_temp (s : State) : s.acceptOffer.temp = s.temp := nextOffer_temp s
@[simp] theorem acceptOffer_tlen (s : State) : s.acceptOffer.tlen = s.tlen := nextOffer_tlen s
@[simp] theorem acceptOffer_cmd (s : State) : s.acceptOffer.cmd = s.nextOffer.cmd := rfl
@[simp] theorem acceptOffer_seedw (s : State) : s.acceptOffer.seedw = s.nextOffer.seedw := rfl
@[simp] theorem acceptOffer_offers (s : State) : s.acceptOffer.offers = s.nextOffer.offers := rfl
@[simp] theorem acceptOffer_resetIn (s : State) : s.acceptOffer.resetIn = s.resetIn := nextOffer_resetIn s
@[simp] theorem acceptOffer_obs (s : State) : s.acceptOffer.obs = s.obs ++ [.accepted] := rfl
@[simp] theorem acceptOffer_ciph (s : State) : s.acceptOffer.ciph = s.ciph := nextOffer_ciph s
@[simp] theorem acceptOffer_level (s : State) : s.acceptOffer.level = s.level := nextOffer_level s
@[simp] theorem acceptOffer_resets (s : State) : s.acceptOffer.resets = s.resets := nextOffer_resets s

/-! ### raiseError -/

@[simp] theorem raiseError_key (s : State) (x : ErrorKind) : (s.raiseError x).key = s.key := rfl
@[simp] theorem raiseError_v (s : State) (x : ErrorKind) : (s.raiseError x).v = s.v := rfl
@[simp] theorem raiseError_rc (s : State) (x : ErrorKind) : (s.raiseError x).rc = s.rc := rfl
@[simp] theorem raiseError_ck (s : State) (x : ErrorKind) : (s.raiseError x).ck = s.ck := rfl
@[simp] theorem raiseError_phase (s : State) (x : ErrorKind) : (s.raiseError x).phase = .idle := rfl
@[simp] theorem raiseError_opl (s : State) (x : ErrorKind) : (s.raiseError x).opl = s.opl := rfl
@[simp] theorem raiseError_bitsrem (s : State) (x : ErrorKind) : (s.raiseError x).bitsrem = s.bitsrem := rfl
@[simp] theorem raiseError_seedl (s : State) (x : ErrorKind) : (s.raiseError x).seedl = s.seedl := rfl
@[simp] theorem raiseError_temp (s : State) (x : ErrorKind) : (s.raiseError x).temp = s.temp := rfl
@[simp] theorem raiseError_tlen (s : State) (x : ErrorKind) : (s.raiseError x).tlen = s.tlen := rfl
@[simp] theorem raiseError_cmd (s : State) (x : ErrorKind) : (s.raiseError x).cmd = s.cmd := rfl
@[simp] theorem raiseError_seedw (s : State) (x : ErrorKind) : (s.raiseError x).seedw = s.seedw := rfl
@[simp] theorem raiseError_offers (s : State) (x : ErrorKind) : (s.raiseError x).offers = s.offers := rfl
@[simp] theorem raiseError_resetIn (s : State) (x : ErrorKind) : (s.raiseError x).resetIn = s.resetIn := rfl
@[simp] theorem raiseError_obs (s : State) (x : ErrorKind) :
    (s.raiseError x).obs = s.obs ++ [.rsp (rspWord (some x))] := rfl
@[simp] theorem raiseError_ciph (s : State) (x : ErrorKind) : (s.raiseError x).ciph = s.ciph := rfl
@[simp] theorem raiseError_level (s : State) (x : ErrorKind) : (s.raiseError x).level = s.level := rfl
@[simp] theorem raiseError_resets (s : State) (x : ErrorKind) : (s.raiseError x).resets = s.resets := rfl

/-! ### takeReset -/

@[simp] theorem takeReset_key (s : State) : s.takeReset.key = 0 := rfl
@[simp] theorem takeReset_v (s : State) : s.takeReset.v = 0 := rfl
@[simp] theorem takeReset_rc (s : State) : s.takeReset.rc = 0 := rfl
@[simp] theorem takeReset_ck (s : State) : s.takeReset.ck = Config.ckAfterReset (s.resets + 1) := rfl
@[simp] theorem takeReset_phase (s : State) : s.takeReset.phase = .idle := rfl
@[simp] theorem takeReset_opl (s : State) : s.takeReset.opl = 0 := rfl
@[simp] theorem takeReset_bitsrem (s : State) : s.takeReset.bitsrem = 0 := rfl
@[simp] theorem takeReset_seedl (s : State) : s.takeReset.seedl = 0 := rfl
@[simp] theorem takeReset_temp (s : State) : s.takeReset.temp = 0 := rfl
@[simp] theorem takeReset_tlen (s : State) : s.takeReset.tlen = 0 := rfl
@[simp] theorem takeReset_cmd (s : State) : s.takeReset.cmd = s.cmd := rfl
@[simp] theorem takeReset_seedw (s : State) : s.takeReset.seedw = s.seedw := rfl
@[simp] theorem takeReset_offers (s : State) : s.takeReset.offers = s.offers := rfl
@[simp] theorem takeReset_resetIn (s : State) : s.takeReset.resetIn = s.resetIn := rfl
@[simp] theorem takeReset_obs (s : State) : s.takeReset.obs = s.obs := rfl
@[simp] theorem takeReset_ciph (s : State) : s.takeReset.ciph = s.ciph := rfl
@[simp] theorem takeReset_level (s : State) : s.takeReset.level = s.level := rfl
@[simp] theorem takeReset_resets (s : State) : s.takeReset.resets = s.resets + 1 := rfl

/-! ### tick -/

@[simp] theorem tick_key (s : State) : s.tick.key = s.key := rfl
@[simp] theorem tick_v (s : State) : s.tick.v = s.v := rfl
@[simp] theorem tick_rc (s : State) : s.tick.rc = s.rc := rfl
@[simp] theorem tick_ck (s : State) : s.tick.ck = s.ck := rfl
@[simp] theorem tick_phase (s : State) : s.tick.phase = s.phase := rfl
@[simp] theorem tick_opl (s : State) : s.tick.opl = s.opl := rfl
@[simp] theorem tick_bitsrem (s : State) : s.tick.bitsrem = s.bitsrem := rfl
@[simp] theorem tick_seedl (s : State) : s.tick.seedl = s.seedl := rfl
@[simp] theorem tick_temp (s : State) : s.tick.temp = s.temp := rfl
@[simp] theorem tick_tlen (s : State) : s.tick.tlen = s.tlen := rfl
@[simp] theorem tick_cmd (s : State) : s.tick.cmd = s.cmd := rfl
@[simp] theorem tick_seedw (s : State) : s.tick.seedw = s.seedw := rfl
@[simp] theorem tick_offers (s : State) : s.tick.offers = s.offers := rfl
@[simp] theorem tick_resetIn (s : State) : s.tick.resetIn = s.resetIn.tail := rfl
@[simp] theorem tick_obs (s : State) : s.tick.obs = s.obs := rfl
@[simp] theorem tick_ciph (s : State) : s.tick.ciph = s.ciph := rfl
@[simp] theorem tick_level (s : State) : s.tick.level = s.level := rfl
@[simp] theorem tick_resets (s : State) : s.tick.resets = s.resets := rfl

/-! ### latchCommand -/

@[simp] theorem latchCommand_key (s : State) (w : CmdWord) (sw : SeedWord) :
    (s.latchCommand w sw).key = s.key := rfl
@[simp] theorem latchCommand_v (s : State) (w : CmdWord) (sw : SeedWord) :
    (s.latchCommand w sw).v = s.v := rfl
@[simp] theorem latchCommand_rc (s : State) (w : CmdWord) (sw : SeedWord) :
    (s.latchCommand w sw).rc = s.rc := rfl
@[simp] theorem latchCommand_ck (s : State) (w : CmdWord) (sw : SeedWord) :
    (s.latchCommand w sw).ck = s.ck := rfl
@[simp] theorem latchCommand_phase (s : State) (w : CmdWord) (sw : SeedWord) :
    (s.latchCommand w sw).phase = firstPhase (cmdOp w) (cmdLen w) := rfl
@[simp] theorem latchCommand_opl (s : State) (w : CmdWord) (sw : SeedWord) :
    (s.latchCommand w sw).opl = cmdOp w := rfl
@[simp] theorem latchCommand_bitsrem (s : State) (w : CmdWord) (sw : SeedWord) :
    (s.latchCommand w sw).bitsrem = if cmdOp w = 3 then BitVec.ofNat 32 (cmdLen w) else 0 := rfl
@[simp] theorem latchCommand_seedl (s : State) (w : CmdWord) (sw : SeedWord) :
    (s.latchCommand w sw).seedl = if cmdOp w = 3 then 0 else sw := rfl
@[simp] theorem latchCommand_temp (s : State) (w : CmdWord) (sw : SeedWord) :
    (s.latchCommand w sw).temp = 0 := rfl
@[simp] theorem latchCommand_tlen (s : State) (w : CmdWord) (sw : SeedWord) :
    (s.latchCommand w sw).tlen = 0 := rfl
@[simp] theorem latchCommand_cmd (s : State) (w : CmdWord) (sw : SeedWord) :
    (s.latchCommand w sw).cmd = s.cmd := rfl
@[simp] theorem latchCommand_seedw (s : State) (w : CmdWord) (sw : SeedWord) :
    (s.latchCommand w sw).seedw = s.seedw := rfl
@[simp] theorem latchCommand_offers (s : State) (w : CmdWord) (sw : SeedWord) :
    (s.latchCommand w sw).offers = s.offers := rfl
@[simp] theorem latchCommand_resetIn (s : State) (w : CmdWord) (sw : SeedWord) :
    (s.latchCommand w sw).resetIn = s.resetIn := rfl
@[simp] theorem latchCommand_obs (s : State) (w : CmdWord) (sw : SeedWord) :
    (s.latchCommand w sw).obs = s.obs := rfl
@[simp] theorem latchCommand_ciph (s : State) (w : CmdWord) (sw : SeedWord) :
    (s.latchCommand w sw).ciph = s.ciph := rfl
@[simp] theorem latchCommand_level (s : State) (w : CmdWord) (sw : SeedWord) :
    (s.latchCommand w sw).level = s.level := rfl
@[simp] theorem latchCommand_resets (s : State) (w : CmdWord) (sw : SeedWord) :
    (s.latchCommand w sw).resets = s.resets := rfl

/-- The cipher's answer depends on CK alone (R58). -/
@[simp] theorem cipherAnswer_eq (cfg : Config) (s : State) (x : Block) : s.cipherAnswer cfg x = cfg.E s.ck x := rfl

/-- BUSY in terms of PHASE (R32). -/
@[simp] theorem busy_eq_true (s : State) : s.busy = true ↔ s.phase ≠ .idle := by simp [State.busy]

/-- BUSY is off exactly in IDLE (R32). -/
@[simp] theorem busy_eq_false (s : State) : s.busy = false ↔ s.phase = .idle := by simp [State.busy]

/-- Two states with the same fields are one state. -/
theorem State.ext_fields {s t : State} (hkey : s.key = t.key) (hv : s.v = t.v) (hrc : s.rc = t.rc) (hck : s.ck = t.ck)
    (hphase : s.phase = t.phase) (hopl : s.opl = t.opl) (hbits : s.bitsrem = t.bitsrem) (hseedl : s.seedl = t.seedl)
    (htemp : s.temp = t.temp) (htlen : s.tlen = t.tlen) (hcmd : s.cmd = t.cmd) (hseedw : s.seedw = t.seedw)
    (hoffers : s.offers = t.offers) (hreset : s.resetIn = t.resetIn) (hobs : s.obs = t.obs) (hciph : s.ciph = t.ciph)
    (hlevel : s.level = t.level) (hresets : s.resets = t.resets) : s = t := by
  cases s; cases t; simp_all

end Sys2Proof.Machine
end

