-- ==== Sys2Proof/Laws/Update.lean ====
section
/-! SUPPORT. The loop of increments and encryptions, said once (R109, R122, R152): `n` passes from `(CK, V)` append
`B(1) || ... || B(n)`, move V by `n`, and make `n` encryptions under the one CK; nothing else changes. With it, what the
six steps of the update write (R121 to R126), and the sizes the relations of R10 give. -/

namespace Sys2Proof.Machine

theorem blockAt_add (cfg : Config) (k v : Block) (i j : Nat) :
    blockAt cfg k (v + BitVec.ofNat 128 i) j = blockAt cfg k v (i + j) := by
  simp [blockAt, BitVec.ofNat_add, BitVec.add_assoc]

@[simp] theorem blocksUpTo_zero (cfg : Config) (k v : Block) : blocksUpTo cfg k v 0 = [] := rfl

@[simp] theorem encryptionsUpTo_zero (cfg : Config) (k v : Block) : encryptionsUpTo cfg k v 0 = [] := rfl

/-- Passes add up: `B(1)` to `B(i + j)` are the first `i` blocks and then the first `j` from `V + i`. -/
theorem blocksUpTo_add (cfg : Config) (k v : Block) (i j : Nat) :
    blocksUpTo cfg k v (i + j) = blocksUpTo cfg k v i ++ blocksUpTo cfg k (v + BitVec.ofNat 128 i) j := by
  simp [blocksUpTo, List.range_add, List.flatMap_map, blockAt, BitVec.ofNat_add, BitVec.add_assoc]

theorem encryptionsUpTo_add (cfg : Config) (k v : Block) (i j : Nat) :
    encryptionsUpTo cfg k v (i + j) = encryptionsUpTo cfg k v i ++ encryptionsUpTo cfg k (v + BitVec.ofNat 128 i) j := by
  simp [encryptionsUpTo, List.range_add, blockAt, BitVec.ofNat_add, BitVec.add_assoc]

theorem blocksUpTo_succ (cfg : Config) (k v : Block) (n : Nat) :
    blocksUpTo cfg k v (n + 1) = blockBytes (blockAt cfg k v 1) ++ blocksUpTo cfg k (v + 1) n := by
  rw [Nat.add_comm, blocksUpTo_add]
  simp [blocksUpTo]

theorem encryptionsUpTo_succ (cfg : Config) (k v : Block) (n : Nat) :
    encryptionsUpTo cfg k v (n + 1) = .encrypt (v + 1) (blockAt cfg k v 1) :: encryptionsUpTo cfg k (v + 1) n := by
  rw [Nat.add_comm, encryptionsUpTo_add]
  simp [encryptionsUpTo]

@[simp] theorem length_blocksUpTo (cfg : Config) (k v : Block) (n : Nat) : (blocksUpTo cfg k v n).length = 16 * n := by
  induction n generalizing v with
  | zero => rfl
  | succ n ih => rw [blocksUpTo_succ, List.length_append, ih, length_blockBytes]; omega

/-- Everything the loop does. -/
theorem encryptPasses_eq (cfg : Config) (n : Nat) (temp : List Byte) (s : State) :
    encryptPasses cfg n temp s =
      (temp ++ blocksUpTo cfg s.ck s.v n,
       { s with v := s.v + BitVec.ofNat 128 n, ciph := s.ciph ++ encryptionsUpTo cfg s.ck s.v n }) := by
  induction n generalizing temp s with
  | zero => simp [encryptPasses]
  | succ n ih =>
    rw [encryptPasses, ih, blocksUpTo_succ, encryptionsUpTo_succ]
    refine Prod.ext (by simp [blockAt]) (State.ext_fields ?_ ?_ ?_ ?_ ?_ ?_ ?_ ?_ ?_ ?_ ?_ ?_ ?_ ?_ ?_ ?_ ?_ ?_) <;>
      simp [blockAt, BitVec.add_assoc, Nat.add_comm n 1, BitVec.ofNat_add]

/-! ### The configuration -/

theorem hw_wf : hw.Wf := by constructor <;> decide

/-- The sizes in bytes that follow from R10 and the register widths. -/
theorem config_sizes {cfg : Config} (h : cfg.Wf) :
    cfg.keylenBytes = 16 ∧ cfg.outlenBytes = 16 ∧ cfg.seedlenBytes = 32 := by
  have hk : cfg.keylenBytes = 16 := by rw [h.keylenBytes_eq, h.keyWidth]
  have ho : cfg.outlenBytes = 16 := by rw [h.outlenBytes_eq, h.blockWidth]
  exact ⟨hk, ho, by rw [h.seedlenBytes_eq, hk, ho]⟩

@[simp] theorem hw_seedlenBytes : hw.seedlenBytes = 32 := rfl

@[simp] theorem outBlocks_hw (L : Nat) : outBlocks hw L = (L + 127) / 128 := by
  simp [outBlocks, show hw.outlenBits = 128 from rfl]

/-! ### The six steps -/

theorem blocksUpTo_two (cfg : Config) (k v : Block) :
    blocksUpTo cfg k v 2 = blockBytes (cfg.E k (v + 1)) ++ blockBytes (cfg.E k (v + 2)) := by
  simp [blocksUpTo, blockAt, List.range_succ]

theorem encryptionsUpTo_two (cfg : Config) (k v : Block) :
    encryptionsUpTo cfg k v 2 = [.encrypt (v + 1) (cfg.E k (v + 1)), .encrypt (v + 2) (cfg.E k (v + 2))] := by
  simp [encryptionsUpTo, blockAt, List.range_succ]

/-- Everything the six steps do, for seed material of 32 bytes. -/
theorem updateSteps_eq {cfg : Config} (h : cfg.Wf) {S : List Byte} (hS : S.length = 32) (s : State) :
    updateSteps cfg S s =
      ({ s with v := s.v + 2, ciph := s.ciph ++ encryptionsUpTo cfg s.ck s.v 2 } : State).commitKeyV
        (cfg.E s.ck (s.v + 1) ^^^ blockOf (S.take 16)) (cfg.E s.ck (s.v + 2) ^^^ blockOf (S.drop 16)) := by
  obtain ⟨hk, ho, hs⟩ := config_sizes h
  have hx : xorBytes ((blocksUpTo cfg s.ck s.v 2).take 32) S =
      xorBytes (blockBytes (cfg.E s.ck (s.v + 1))) (S.take 16) ++
        xorBytes (blockBytes (cfg.E s.ck (s.v + 2))) (S.drop 16) := by
    rw [List.take_of_length_le (by simp), blocksUpTo_two]
    conv_lhs => rw [← List.take_append_drop 16 S]
    exact xorBytes_append (by simp [hS])
  unfold updateSteps
  simp only [hk, ho, hs, encryptPasses_eq, List.nil_append, show 32 / 16 = 2 from rfl, hx]
  rw [List.take_left' (by simp [hS]), List.drop_left' (by simp [hS]), blockOf_xorBytes (by simp [hS]),
    blockOf_xorBytes (by simp [hS]), blockOf_blockBytes, blockOf_blockBytes]
  rfl

end Sys2Proof.Machine
end

