-- ==== Sys2Proof/Laws/Commands.lean ====
section
/-! SUPPORT. What the frame of a command does in each of its three cases (R52, R140, R208), the seed as its two halves
(R89), its checks as its status, and the observations it leaves. -/

namespace Sys2Proof.Machine

/-! ### The frame of a command -/

/-- While busy the command is held (R52). -/
theorem runCommand_held {s : State} (h : s.phase ≠ .idle) (check : Option ErrorKind) (effect : State → State) :
    runCommand s check effect = .next s := by
  simp [runCommand, State.busy, h]

/-- A check that fails ends the command (R208). -/
theorem runCommand_failed {s : State} (h : s.phase = .idle) (x : ErrorKind) (effect : State → State) :
    runCommand s (some x) effect = .next (s.acceptOffer.raiseError x) := by
  simp [runCommand, State.busy, h]

/-- A command that passes its checks has its effect and answers OK (R140). -/
theorem runCommand_passed {s : State} (h : s.phase = .idle) (effect : State → State) :
    runCommand s none effect = .next ((effect s.acceptOffer).memWriteRsp 0) := by
  simp [runCommand, State.busy, h, rspWord, statusCode]

/-- `MemRead(SEED, 32)` is the two halves of the SEED word (R89). -/
theorem memReadSeed_eq_halves (s : State) :
    s.memReadSeed 32 = blockBytes (tempHigh s.seedw) ++ blockBytes (tempLow s.seedw) := by
  rw [State.memReadSeed, List.take_of_length_le (by simp), seedBytes_eq_halves]

/-! ### The checks of a command are its status (R205) -/

theorem commandStatus_instantiate {w : CmdWord} (rc : BitVec 32) (ho : cmdOp w = 1) (hr : cmdRsv w = 0) :
    commandStatus hw w rc = instantiateCheck hw (cmdEos w) (cmdLen w) := by
  simp [commandStatus, ho, hr, instantiateCheck, seedError, -hw_seedlenBytes]

theorem commandStatus_reseed {w : CmdWord} (s : State) (ho : cmdOp w = 2) (hr : cmdRsv w = 0) :
    commandStatus hw w s.rc = reseedCheck hw (cmdEos w) (cmdLen w) s := by
  simp [commandStatus, ho, hr, reseedCheck, seedError, -hw_seedlenBytes]

theorem commandStatus_generate {w : CmdWord} (s : State) (ho : cmdOp w = 3) (he : cmdEos w = false) (hr : cmdRsv w = 0) :
    commandStatus hw w s.rc = generateCheck hw s := by
  simp [commandStatus, ho, he, hr, generateCheck]

/-! ### Observations -/

@[simp] theorem outByte_accepted : HostEvent.accepted.outByte = none := rfl
@[simp] theorem outByte_out (b : Byte) : (HostEvent.out b).outByte = some b := rfl
@[simp] theorem outByte_rsp (w : RspWord) : (HostEvent.rsp w).outByte = none := rfl
@[simp] theorem rspWord_accepted : HostEvent.accepted.rspWord = none := rfl
@[simp] theorem rspWord_out (b : Byte) : (HostEvent.out b).rspWord = none := rfl
@[simp] theorem rspWord_rsp (w : RspWord) : (HostEvent.rsp w).rspWord = some w := rfl

/-- Bytes put on OUT are read back from the observations. -/
@[simp] theorem filterMap_outByte_out (B : List Byte) : (B.map HostEvent.out).filterMap HostEvent.outByte = B := by
  induction B with
  | nil => rfl
  | cons b B ih => simp [ih]

/-- Bytes put on OUT deliver no RSP word. -/
@[simp] theorem filterMap_rspWord_out (B : List Byte) : (B.map HostEvent.out).filterMap HostEvent.rspWord = [] := by
  induction B with
  | nil => rfl
  | cons b B ih => simp

theorem outStream_append {s t : State} {seen : List HostEvent} (h : t.obs = s.obs ++ seen) :
    t.outStream = s.outStream ++ seen.filterMap HostEvent.outByte := by
  simp [State.outStream, h]

theorem rspWords_append {s t : State} {seen : List HostEvent} (h : t.obs = s.obs ++ seen) :
    t.rspWords = s.rspWords ++ seen.filterMap HostEvent.rspWord := by
  simp [State.rspWords, h]

@[simp] theorem filterMap_outByte_commandEvents (out : List Byte) (outcome : Option ErrorKind) :
    (commandEvents out outcome).filterMap HostEvent.outByte = out := by
  simp [commandEvents, List.filterMap_cons, -List.filterMap_map]

@[simp] theorem filterMap_rspWord_commandEvents (out : List Byte) (outcome : Option ErrorKind) :
    (commandEvents out outcome).filterMap HostEvent.rspWord = [rspWord outcome] := by
  simp [commandEvents, List.filterMap_cons, -List.filterMap_map]

end Sys2Proof.Machine
end

