-- ==== Sys2Proof/Laws/PerInstr.lean ====
section
/-! SUPPORT. Family Table: the code of every well-formed instruction is the one spec/opcode_table.json gives its row
(R90, R93), one lemma for each constructor. -/

namespace Sys2Proof.Laws.Table

/-- The instruction's own code stands in its row of the opcode table. -/
def Statement (i : Instr) : Prop := i.wf = true → i.codeInTable (encode i) = true

theorem instantiate (eos : Bool) (len : Nat) : Statement (.instantiate eos len) := by
  intro h
  have hlen : len < 2 ^ 32 := by simpa [Instr.wf, lenFits] using h
  exact (selects_instantiateRow _).mpr ⟨cmdOp_cmdWord _ _ hlen, cmdRsv_cmdWord _ _ hlen⟩

theorem reseed (eos : Bool) (len : Nat) : Statement (.reseed eos len) := by
  intro h
  have hlen : len < 2 ^ 32 := by simpa [Instr.wf, lenFits] using h
  exact (selects_reseedRow _).mpr ⟨cmdOp_cmdWord _ _ hlen, cmdRsv_cmdWord _ _ hlen⟩

theorem generate (len : Nat) : Statement (.generate len) := by
  intro h
  have hlen : len < 2 ^ 32 := by simpa [Instr.wf, lenFits] using h
  exact (selects_generateRow _).mpr
    ⟨cmdOp_cmdWord _ _ hlen, cmdEos_cmdWord _ _ hlen, cmdRsv_cmdWord _ _ hlen⟩

theorem idle : Statement .idle := fun _ => rfl

theorem instZero : Statement .instZero := fun _ => rfl

theorem genIncr : Statement .genIncr := fun _ => rfl

theorem genEnc : Statement .genEnc := fun _ => rfl

theorem updIncr : Statement .updIncr := fun _ => rfl

theorem updEnc : Statement .updEnc := fun _ => rfl

theorem updXor : Statement .updXor := fun _ => rfl

theorem updCommit : Statement .updCommit := fun _ => rfl

theorem finish : Statement .finish := fun _ => rfl

end Sys2Proof.Laws.Table
end

