-- ==== Sys2Proof/Laws/Step.lean ====
section
/-! SUPPORT. What one step can be: a reset, a phase, or a host command (R12, R90, R231). -/

namespace Sys2Proof.Machine

@[simp] theorem tick_eq_self {s : State} (h : s.resetIn = []) : s.tick = s := by
  cases s
  simp_all [State.tick]

/-- A reset that is asserted is all the step does (R219). -/
theorem step_of_reset {s : State} (h : s.resetAsserted = true) : step s = .next s.tick.takeReset := by simp [step, h]

/-- With no reset the step runs the instruction that is next. -/
theorem step_of_no_reset {s : State} (h : s.resetAsserted = false) : step s = exec (fetch s) s.tick := by simp [step, h]

/-- While busy, and always at the FSM level, PHASE selects (R90). -/
theorem fetch_of_phase {s : State} (h : s.phase ≠ .idle ∨ s.level = .fsm) : fetch s = s.phase.instr := by
  unfold fetch
  cases hp : s.phase <;> cases hl : s.level <;> simp_all

/-- In IDLE at the command level the offer selects (R12). -/
theorem fetch_of_offer {s : State} (hp : s.phase = .idle) (hl : s.level = .command) : fetch s = offeredInstr s.cmd := by
  simp only [fetch, hp, hl]

/-- A CMD word that decodes, decodes to a host command. -/
theorem phaseOf_decodeCmd {w : CmdWord} {i : Instr} (h : decodeCmd w = .ok i) : phaseOf i = none := by
  simp only [decodeCmd] at h
  split_ifs at h <;> (obtain rfl := Except.ok.inj h; rfl)

/-- The offer selects the acceptance of IDLE or a host command. -/
theorem offeredInstr_cases (cmd : Option CmdWord) : offeredInstr cmd = .idle ∨ phaseOf (offeredInstr cmd) = none := by
  cases cmd with
  | none => exact .inl rfl
  | some w =>
    cases h : decodeCmd w with
    | ok i => exact .inr (by simpa only [offeredInstr, h] using phaseOf_decodeCmd h)
    | error e => exact .inl (by simp only [offeredInstr, h])

/-- Every step is one of: a reset; the phase in PHASE, while busy; the acceptance of IDLE; a host command as one step. -/
theorem step_cases (s : State) :
    s.resetAsserted = true ∧ step s = .next s.tick.takeReset ∨
    s.resetAsserted = false ∧ s.phase ≠ .idle ∧ step s = exec s.phase.instr s.tick ∨
    s.resetAsserted = false ∧ s.phase = .idle ∧ step s = exec .idle s.tick ∨
    s.resetAsserted = false ∧ s.phase = .idle ∧ s.level = .command ∧ phaseOf (fetch s) = none ∧
      step s = exec (fetch s) s.tick := by
  cases hr : s.resetAsserted with
  | true => exact .inl ⟨rfl, step_of_reset hr⟩
  | false =>
    have hs := step_of_no_reset hr
    by_cases hp : s.phase = .idle
    · cases hl : s.level with
      | fsm =>
        rw [fetch_of_phase (.inr hl), hp] at hs
        exact .inr (.inr (.inl ⟨rfl, hp, hs⟩))
      | command =>
        rcases offeredInstr_cases s.cmd with h | h
        · rw [fetch_of_offer hp hl, h] at hs
          exact .inr (.inr (.inl ⟨rfl, hp, hs⟩))
        · exact .inr (.inr (.inr ⟨rfl, hp, rfl, by rw [fetch_of_offer hp hl]; exact h, hs⟩))
    · rw [fetch_of_phase (.inl hp)] at hs
      exact .inr (.inl ⟨rfl, hp, hs⟩)

end Sys2Proof.Machine
end

