-- ==== Sys2Proof/Tests/Slice0.lean ====
section
/-! SUPPORT. Tests, with expected values from 95_test_vectors.md (the vector is named) or worked by hand from a rule; then
a witness for the hypotheses of every statement that has some, each clause at a boundary of its range. -/

namespace Sys2Proof.Tests

open Sys2Proof.Machine

/-! ### Helpers -/

/-- An idle sequencer with the cipher keyed with KEY. -/
def idleWith (key v : Block) (rc : BitVec 32) (seedw : SeedWord) : State :=
  { State.reset with key := key, v := v, ck := key, rc := rc, seedw := seedw }

/-- The same with a word offered. -/
def offering (w : CmdWord) (rc : BitVec 32) (level : Level) : State :=
  { idleWith 5 7 rc 9 with cmd := some w, level := level }

/-- A sequencer in a given phase of the FSM level, with the cipher keyed with KEY. -/
def inPhase (p : Phase) (key v : Block) : State := { idleWith key v 1 0 with phase := p, level := .fsm }

/-- The outcome is a next state of which `p` holds. -/
def ends (r : Host.Outcome State Fault Refusal) (p : State → Bool) : Bool :=
  match r with
  | .next t => p t
  | .fault _ => false
  | .refused _ => false

/-- KEY, V and RC after an outcome are as given, CK is KEY, and the host has seen these OUT bytes and this RSP word. -/
def endsAs (r : Host.Outcome State Fault Refusal) (key v : Block) (rc : BitVec 32) (out : List Byte) (rsp : RspWord) : Bool :=
  ends r fun t => t.key == key && t.v == v && t.ck == key && t.rc == rc && t.outStream == out && t.rspWords == [rsp]

/-- The seed `S1` of 95_test_vectors.md. -/
def seed1 : SeedWord := 0x000102030405060708090A0B0C0D0E0F101112131415161718191A1B1C1D1E1F

/-- The seed `S2` of 95_test_vectors.md. -/
def seed2 : SeedWord := 0x808182838485868788898A8B8C8D8E8F909192939495969798999A9B9C9D9E9F

/-! ### Well-formedness: each check refuses an ill-formed term -/

theorem test_wf_instantiate_len : Instr.wf (.instantiate false 4294967296) = false := by decide
theorem test_wf_reseed_len : Instr.wf (.reseed true 4294967296) = false := by decide
theorem test_wf_generate_len : Instr.wf (.generate 4294967296) = false := by decide
theorem test_wf_generate_max : Instr.wf (.generate 4294967295) = true := by decide

/-! ### Decoding: words written out from R81 and R90 (LEN, RSV, EOS, OP) -/

/-- T60, T65: LEN = 32 and EOS = 0; LEN = 31 and EOS = 1. -/
theorem test_decode_instantiate :
    decodeCmd (0b00000000000000000000000000100000#32 ++ 0b000000000000000000000000000#27 ++ 0b0#1 ++ 0b0001#4) =
      .ok (.instantiate false 32) ∧
    decodeCmd (0b00000000000000000000000000011111#32 ++ 0b000000000000000000000000000#27 ++ 0b1#1 ++ 0b0001#4) =
      .ok (.instantiate true 31) := by decide

/-- T61, T42. -/
theorem test_decode_reseed :
    decodeCmd (0b00000000000000000000000000100000#32 ++ 0b000000000000000000000000000#27 ++ 0b0#1 ++ 0b0010#4) =
      .ok (.reseed false 32) ∧
    decodeCmd 0x0000001000000012 = .ok (.reseed true 16) := by decide

/-- T62, T66. -/
theorem test_decode_generate :
    decodeCmd (0b00000000000000000000000010000000#32 ++ 0b000000000000000000000000000#27 ++ 0b0#1 ++ 0b0011#4) =
      .ok (.generate 128) ∧
    decodeCmd 0xFFFFFFFF00000003 = .ok (.generate 4294967295) := by decide

/-- T48, T49, T50, T51, T56, and bit 31 set. -/
theorem test_decode_illegal :
    decodeCmd 0x0000000000000000 = .error .reservedOpcode ∧
    decodeCmd 0x0000000000000004 = .error .reservedOpcode ∧
    decodeCmd 0x0000000800000013 = .error .eosInGenerate ∧
    decodeCmd 0x0000002000000021 = .error .reservedBits ∧
    decodeCmd 0x000000200000000F = .error .reservedOpcode ∧
    decodeCmd 0x0000002080000001 = .error .reservedBits := by decide

/-- R90's table, value by value. -/
theorem test_decode_phases :
    decodePhase 0b0000 = .ok .idle ∧ decodePhase 0b0001 = .ok .instZero ∧ decodePhase 0b0010 = .ok .genIncr ∧
    decodePhase 0b0011 = .ok .genEnc ∧ decodePhase 0b0100 = .ok .updIncr ∧ decodePhase 0b0101 = .ok .updEnc ∧
    decodePhase 0b0110 = .ok .updXor ∧ decodePhase 0b0111 = .ok .updCommit ∧ decodePhase 0b1000 = .ok .finish ∧
    decodePhase 0b1001 = .error .unusedPhase ∧ decodePhase 0b1111 = .error .unusedPhase := by decide

/-- The host's view of both code spaces. -/
theorem test_decodeTableWord :
    decodeTableWord 64 0x0000002000000002 = some (.reseed false 32) ∧ decodeTableWord 64 0 = none ∧
    decodeTableWord 8 7 = some .updCommit ∧ decodeTableWord 8 9 = none ∧ decodeTableWord 8 16 = none := by decide

/-- T60, T65, T62, T63, T64 and R92: the assembler's words; `8k` beyond LEN has no encoding. -/
theorem test_assemble :
    (assemble (.instantiate (List.replicate 32 0) false)).map Offer.cmd = some 0x0000002000000001 ∧
    (assemble (.instantiate (List.replicate 31 0) true)).map Offer.cmd = some 0x0000001F00000011 ∧
    (assemble (.generate 128)).map Offer.cmd = some 0x0000008000000003 ∧
    (assemble (.generateBytes 25)).map Offer.cmd = some 0x000000C800000003 ∧
    (assemble (.generateBlocks 2)).map Offer.cmd = some 0x0000010000000003 ∧
    assemble (.generateBytes 536870912) = none := by decide

/-- T67: the first seed byte is the most significant byte of SEEDW. -/
theorem test_seedw : seedwOf ((List.range 32).map fun i => BitVec.ofNat 8 i) = seed1 := by decide

/-! ### AES-128: the table of section 2 -/

/-- A1 to A5. -/
theorem test_aes_a1_a5 :
    aes128 0x000102030405060708090A0B0C0D0E0F 0x00112233445566778899AABBCCDDEEFF = 0x69C4E0D86A7B0430D8CDB78070B4C55A ∧
    aes128 0 0 = 0x66E94BD4EF8A2C3B884CFA59CA342B2E ∧
    aes128 0 1 = 0x58E2FCCEFA7E3061367F1D57A4E7455A ∧
    aes128 0 2 = 0x0388DACE60B6A392F328C2B971B2FE78 ∧
    aes128 0x58E2FCCEFA7E3061367F1D57A4E7455A 0x0388DACE60B6A392F328C2B971B2FE79 = 0xD40E25D386F068BA00CD8671F3478932 := by
  decide +kernel

/-- A6 to A10. -/
theorem test_aes_a6_a10 :
    aes128 0x58E2FCCEFA7E3061367F1D57A4E7455A 0x0388DACE60B6A392F328C2B971B2FE7A = 0x44D0417C2AF3BD62661585AEF6D75D22 ∧
    aes128 0x58E2FCCEFA7E3061367F1D57A4E7455A 0x0388DACE60B6A392F328C2B971B2FE7B = 0xC8DF4F225D588F8F0B73724AB798DF00 ∧
    aes128 0x58E2FCCEFA7E3061367F1D57A4E7455A 0x0388DACE60B6A392F328C2B971B2FE7C = 0xE7AE2BD41A30D5704535E716AF0BCE68 ∧
    aes128 0x58E2FCCEFA7E3061367F1D57A4E7455A 0x0388DACE60B6A392F328C2B971B2FE7D = 0x711E5CAEA41CBDA7DF0B8246C8E81945 ∧
    aes128 0x44D0417C2AF3BD62661585AEF6D75D22 0xC8DF4F225D588F8F0B73724AB798DF01 = 0xBC6F12B1FB5943742DDFC0392C94F993 := by
  decide +kernel

/-- A11 to A14. -/
theorem test_aes_a11_a14 :
    aes128 0x58E2FCCEFA7E3061367F1D57A4E7455A 0xFFFFFFFFFFFFFFFFFFFFFFFFFFFFFFFF = 0xCF4BC732AE18BF747B1E9207577D1043 ∧
    aes128 0x58E2FCCEFA7E3061367F1D57A4E7455A 0 = 0xFF9D35D48D37413606F4E37138A1630A ∧
    aes128 0x58E2FCCEFA7E3061367F1D57A4E7455A 1 = 0x6CB6CD8100215D9E047414A0DA9BB078 ∧
    aes128 0x58E2FCCEFA7E3061367F1D57A4E7455A 2 = 0x849838819877BF0FB5ACD2FC72BB12F5 := by
  decide +kernel

/-! ### The FixedWidthCounter -/

/-- T2, T4, T5: one carry, the wrap, the carry into byte 0. -/
theorem test_incr :
    counterIncr (zeroBytes 15 ++ [0xFF]) = zeroBytes 14 ++ [0x01, 0x00] ∧
    counterIncr (List.replicate 16 0xFF) = zeroBytes 16 ∧
    counterIncr (0x00 :: List.replicate 15 0xFF) = 0x01 :: zeroBytes 15 := by decide

/-- T8, T8a, T8b, T8c, T9. -/
theorem test_from_integer :
    fromInteger 258 16 = .ok (zeroBytes 14 ++ [0x01, 0x02]) ∧
    fromInteger (2 ^ 128 - 1) 16 = .ok (List.replicate 16 0xFF) ∧
    fromInteger (2 ^ 128) 16 = .error .rangeError ∧
    fromInteger 256 1 = .error .rangeError ∧
    asInteger (zeroBytes 14 ++ [0x01, 0x02]) = 258 := by decide

/-! ### The update function -/

/-- T13: V wraps between the two blocks; T14. -/
theorem test_update :
    (match update hw (seedBytes seed1) (idleWith 0 0xFFFFFFFFFFFFFFFFFFFFFFFFFFFFFFFE 1 0) with
      | .ok t => t.key == 0x3F5A8ECAEE805C0DF27A4DD932806841 && t.v == 0x76F859C7FB9F3A2C9055E042D6293531 && t.ck == t.key
      | .error _ => false) = true ∧
    (match update hw ((seedBytes seed1).take 31) (idleWith 0 0 1 0) with
      | .ok _ => false
      | .error x => x == .invalidInputLength) = true := by decide +kernel

/-! ### The commands, one step each -/

/-- T17a: a whole seed with EOS set, over an earlier instantiation. -/
theorem test_instantiate :
    endsAs (exec (.instantiate true 32) (idleWith 5 7 1001 seed1))
      0x58E3FECDFE7B36663E76175CA8EA4B55 0x1399C8DD74A3B585EB31D8A26DAFE067 1 [] 0 = true := by decide +kernel

/-- T44, T43, T45: EndOfStream; InvalidInputLength for short and for long, whatever EOS. -/
theorem test_instantiate_fails :
    endsAs (exec (.instantiate true 31) (idleWith 5 7 3 seed1)) 5 7 3 [] 2 = true ∧
    endsAs (exec (.instantiate false 31) (idleWith 5 7 3 seed1)) 5 7 3 [] 1 = true ∧
    endsAs (exec (.instantiate true 33) (idleWith 5 7 3 seed1)) 5 7 3 [] 1 = true := by decide

/-- T33. -/
theorem test_reseed :
    endsAs (exec (.reseed false 32) (idleWith 0x05135797117FD1AB317D318C660E3D18 0x14810C15D85DA5665C2518B4553FB155 2 seed2))
      0x0A8EE920FF40181AD75EF36B8AC00EF1 0xBEAA96EF7A47D8E9A9240DB8D15CAC94 1 [] 0 = true := by decide +kernel

/-- T42, T54: NotInstantiated comes before EndOfStream; a seed too long. -/
theorem test_reseed_fails :
    endsAs (exec (.reseed true 16) (idleWith 0 0 0 seed1)) 0 0 0 [] 5 = true ∧
    endsAs (exec (.reseed false 40) (idleWith 5 7 1001 seed1)) 5 7 1001 [] 1 = true := by decide

/-- T30a: 130 bits, the last byte cut to its two leftmost bits. -/
theorem test_generate_truncates :
    endsAs (exec (.generate 130) (idleWith 0x58E2FCCEFA7E3061367F1D57A4E7455A 0x0388DACE60B6A392F328C2B971B2FE78 1 0))
      0xC8DF4F225D588F8F0B73724AB798DF00 0xE7AE2BD41A30D5704535E716AF0BCE68 2
      (blockBytes 0xD40E25D386F068BA00CD8671F3478932 ++ [0x40]) 0 = true := by decide +kernel

/-- T52, T40, T21: ReseedRequired, NotInstantiated, and GENERATE 0, which moves KEY and V. -/
theorem test_generate_edges :
    endsAs (exec (.generate 128) (idleWith 5 7 1001 0)) 5 7 1001 [] 3 = true ∧
    endsAs (exec (.generate 128) (idleWith 0 0 0 0)) 0 0 0 [] 5 = true ∧
    endsAs (exec (.generate 0) (idleWith 0x58E2FCCEFA7E3061367F1D57A4E7455A 0x0388DACE60B6A392F328C2B971B2FE78 1 0))
      0xD40E25D386F068BA00CD8671F3478932 0x44D0417C2AF3BD62661585AEF6D75D22 2 [] 0 = true := by decide +kernel

/-! ### The phases, one step each -/

/-- Acceptance of T71: GENERATE 136 latches OPL and BITSREM, clears SEEDL and goes to GEN_INCR. -/
theorem test_idle_accepts :
    ends (exec .idle (offering 0x0000008800000003 1 .fsm)) (fun t =>
      t.phase == .genIncr && t.opl == 3 && t.bitsrem == 136 && t.seedl == 0 && t.tlen == 0 && t.key == 5 && t.v == 7 &&
      t.rc == 1 && t.obs == [.accepted] && t.cmd == none) = true := by decide

/-- T50: EOS in GENERATE is answered with IllegalCommand, and nothing is latched. -/
theorem test_idle_refuses :
    ends (exec .idle (offering 0x0000000800000013 0 .fsm)) (fun t =>
      t.phase == .idle && t.opl == 0 && t.bitsrem == 0 && t.obs == [.accepted, .rsp 6] && t.ciph == []) = true := by decide

/-- T70 step 1. -/
theorem test_instZero :
    ends (exec .instZero (inPhase .instZero 5 7)) (fun t =>
      t.key == 0 && t.v == 0 && t.ck == 0 && t.phase == .updIncr && t.ciph == [.rekey 0]) = true := by decide

/-- T3 in the phase GEN_INCR: the carry runs through eight bytes. -/
theorem test_genIncr :
    ends (exec .genIncr (inPhase .genIncr 5 0x0000000000000000FFFFFFFFFFFFFFFF)) (fun t =>
      t.v == 0x00000000000000010000000000000000 && t.phase == .genEnc && t.key == 5) = true := by decide

/-- T71 step 2: a whole block. -/
theorem test_genEnc_block :
    ends (exec .genEnc { inPhase .genEnc 0x58E3FECDFE7B36663E76175CA8EA4B55 0x1399C8DD74A3B585EB31D8A26DAFE068 with
      opl := 3, bitsrem := 136 }) (fun t =>
        t.outStream == blockBytes 0x1686FFCF9F358BE74452E647BA156AAB && t.bitsrem == 8 && t.phase == .genIncr) = true := by
  decide +kernel

/-- T71 step 4: the first byte of the second block. -/
theorem test_genEnc_last :
    ends (exec .genEnc { inPhase .genEnc 0x58E3FECDFE7B36663E76175CA8EA4B55 0x1399C8DD74A3B585EB31D8A26DAFE069 with
      opl := 3, bitsrem := 8 }) (fun t => t.outStream == [0x05] && t.bitsrem == 0 && t.phase == .updIncr) = true := by
  decide +kernel

/-- T4 in the phase UPD_INCR: the wrap. -/
theorem test_updIncr :
    ends (exec .updIncr (inPhase .updIncr 5 0xFFFFFFFFFFFFFFFFFFFFFFFFFFFFFFFF)) (fun t =>
      t.v == 0 && t.phase == .updEnc && t.rspWords == []) = true := by decide

/-- T70 steps 3 and 5: the first block to the upper half, the second to the lower. -/
theorem test_updEnc :
    ends (exec .updEnc (inPhase .updEnc 0 1)) (fun t =>
      t.temp == 0x58E2FCCEFA7E3061367F1D57A4E7455A00000000000000000000000000000000 && t.tlen == 16 && t.phase == .updIncr) = true ∧
    ends (exec .updEnc { inPhase .updEnc 0 2 with
      tlen := 16, temp := 0x58E2FCCEFA7E3061367F1D57A4E7455A00000000000000000000000000000000 }) (fun t =>
        t.temp == 0x58E2FCCEFA7E3061367F1D57A4E7455A0388DACE60B6A392F328C2B971B2FE78 && t.tlen == 32 &&
        t.phase == .updXor) = true := by decide +kernel

/-- T70 step 6. -/
theorem test_updXor :
    ends (exec .updXor { inPhase .updXor 0 2 with
      tlen := 32, seedl := seed1, temp := 0x58E2FCCEFA7E3061367F1D57A4E7455A0388DACE60B6A392F328C2B971B2FE78 }) (fun t =>
        t.temp == 0x58E3FECDFE7B36663E76175CA8EA4B551399C8DD74A3B585EB31D8A26DAFE067 && t.tlen == 32 &&
        t.phase == .updCommit) = true := by decide

/-- T70 step 7. -/
theorem test_updCommit :
    ends (exec .updCommit { inPhase .updCommit 0 2 with
      tlen := 32, seedl := seed1, temp := 0x58E3FECDFE7B36663E76175CA8EA4B551399C8DD74A3B585EB31D8A26DAFE067 }) (fun t =>
        t.key == 0x58E3FECDFE7B36663E76175CA8EA4B55 && t.v == 0x1399C8DD74A3B585EB31D8A26DAFE067 && t.ck == t.key &&
        t.temp == 0 && t.tlen == 0 && t.seedl == 0 && t.phase == .finish) = true := by decide

/-- T70 step 8 and T71 step 11: RC becomes 1, or one more. -/
theorem test_finish :
    ends (exec .finish { inPhase .finish 5 7 with opl := 1, rc := 0 }) (fun t =>
      t.rc == 1 && t.opl == 0 && t.rspWords == [0] && t.phase == .idle) = true ∧
    ends (exec .finish { inPhase .finish 5 7 with opl := 3 }) (fun t => t.rc == 2 && t.phase == .idle) = true := by decide

/-! ### The step -/

/-- R231: a reset in mid-command wins; no RSP word is delivered, the OUT byte stays, the offer stays. -/
theorem test_reset_in_command :
    ends (step { inPhase .genEnc 5 7 with opl := 3, bitsrem := 136, resetIn := [true], obs := [.accepted, .out 0x16], cmd := some 3 })
      (fun t => t.key == 0 && t.v == 0 && t.rc == 0 && t.phase == .idle && t.bitsrem == 0 && t.resetIn == [] &&
        t.obs == [.accepted, .out 0x16] && t.cmd == some 3) = true := by decide

/-- A placed word runs as the first instruction after reset: T48, and INST_ZERO. -/
theorem test_placed_words :
    ends (step (State.reset.withFetchWord 64 0)) (fun t => t.obs == [.accepted, .rsp 6]) = true ∧
    ends (step (State.reset.withFetchWord 8 1)) (fun t => t.phase == .updIncr && t.ck == 0) = true := by decide

/-! ### Witnesses -/

/-- A GENERATE in its output loop, in a state that meets the invariant. -/
def midGenerate : State := { inPhase .genEnc 5 7 with opl := 3, bitsrem := 136 }

theorem midGenerate_inv : midGenerate.Inv := by
  constructor <;> simp [midGenerate, inPhase, idleWith, State.reset, State.CipherCoherent, State.TlenLegal,
    State.TempZeroPadded, State.LatchesScrubbed, State.BitsremLegal, State.OplLegal, State.BudgetLegal,
    State.GenerateSeedZero, State.UninstantiatedZero, hw]

/-- An idle sequencer at the FSM level, Ready, with nothing offered. -/
def waiting : State := { idleWith 5 7 1 0 with level := .fsm }

theorem waiting_inv : waiting.Inv := by
  constructor <;> simp [waiting, idleWith, State.reset, State.CipherCoherent, State.TlenLegal,
    State.TempZeroPadded, State.LatchesScrubbed, State.BitsremLegal, State.OplLegal, State.BudgetLegal,
    State.GenerateSeedZero, State.UninstantiatedZero, hw]

/-- The same, whatever is offered. -/
theorem offered_inv (w : CmdWord) : (offering w 1 .fsm).Inv := by
  constructor <;> simp [offering, idleWith, State.reset, State.CipherCoherent, State.TlenLegal,
    State.TempZeroPadded, State.LatchesScrubbed, State.BitsremLegal, State.OplLegal, State.BudgetLegal,
    State.GenerateSeedZero, State.UninstantiatedZero, hw]

/-- The update phase of a RESEED that encrypts its second block. -/
def midUpdate : State := { inPhase .updEnc 5 7 with opl := 2, tlen := 16 }

theorem midUpdate_inv : midUpdate.Inv := by
  constructor <;> simp [midUpdate, inPhase, idleWith, State.reset, State.CipherCoherent, State.TlenLegal,
    State.TempZeroPadded, State.LatchesScrubbed, State.BitsremLegal, State.OplLegal, State.BudgetLegal,
    State.GenerateSeedZero, State.UninstantiatedZero, tempLow, hw]

theorem witness_DecodeOfEncodeIsIdentity :
    Instr.wf (.instantiate true 4294967295) = true ∧ Instr.wf (.reseed false 0) = true ∧
    Instr.wf (.generate 4294967295) = true ∧ Instr.wf .finish = true := by decide

theorem witness_EncodeOfDecodeIsIdentity :
    decode (.cmd 0xFFFFFFFF00000011) = .ok (.instantiate true 4294967295) ∧ decode (.phase 8) = .ok .finish := by decide

/-- Each clause of `illegal` on its own: OP 0, 4 and 15, RSV bit 5 and bit 31, EOS in GENERATE. -/
theorem witness_IllegalWordIsRefusedWithoutEffect :
    (0x0#64).extractLsb' 0 4 = 0#4 ∧ 4 ≤ ((0x4#64).extractLsb' 0 4).toNat ∧ 4 ≤ ((0xF#64).extractLsb' 0 4).toNat ∧
    (0x2000000021#64).extractLsb' 5 27 ≠ 0#27 ∧ (0x2080000001#64).extractLsb' 5 27 ≠ 0#27 ∧
    ((0x0800000013#64).extractLsb' 0 4 = 3#4 ∧ (0x0800000013#64).getLsbD 4 = true) ∧
    (offering 0x0800000013 0 .command).phase = .idle ∧
    (offering 0x0800000013 0 .command).cmd = some 0x0800000013 ∧
    (offering 0x0800000013 0 .command).resetAsserted = false := by decide

theorem witness_PhaseValueSelectsMicroOperation : midGenerate.phase ≠ .idle := by decide

theorem witness_AssemblerCarriesOperands :
    (List.replicate 32 (0 : Byte)).length = 32 ∧ (List.replicate 33 (0 : Byte)).length < 2 ^ 32 ∧ (31 : Nat) < 32 ∧
    (4294967295 : Nat) < 2 ^ 32 ∧ 2 ^ 32 ≤ (4294967296 : Nat) := by decide

theorem witness_IncrementCarriesAndWraps : (0x00 : Byte) ≠ 0xFF ∧ (0xFE : Byte) ≠ 0xFF := by decide

theorem witness_FromIntegerRaisesRangeErrorExactly :
    1 ≤ (1 : Nat) ∧ (255 : Nat) < 2 ^ (8 * 1) ∧ 2 ^ (8 * 1) ≤ (256 : Nat) := by decide

theorem witness_CounterViewsRoundTrip : (0 : Nat) < 2 ^ (8 * 0) ∧ 2 ^ 128 - 1 < 2 ^ (8 * 16) := by decide

theorem witness_TruncationKeepsLeftmostBits :
    0 ≤ 8 * ([] : List Byte).length ∧ 9 ≤ 8 * ([0xD4, 0x0E] : List Byte).length ∧
    16 ≤ 8 * ([0xD4, 0x0E] : List Byte).length := by decide

/-- The hardware, and another cipher function: the identity on blocks. -/
theorem witness_UpdateReplacesKeyAndVector :
    hw.Wf ∧ Config.Wf { E := fun _ x => x } ∧ ((seedBytes seed1).take 31).length ≠ 32 ∧
    (seedBytes seed1 ++ [0]).length ≠ 32 ∧ (seedBytes seed1).length = 32 ∧ (idleWith 5 7 1 0).ck = (idleWith 5 7 1 0).key :=
  ⟨hw_wf, by constructor <;> decide, by decide⟩

theorem witness_InstantiateSucceeds :
    (idleWith 0 0 0 seed1).phase = .idle ∧ (idleWith 5 7 1001 seed1).phase = .idle := by decide

theorem witness_ReseedSucceeds :
    (idleWith 5 7 1 seed1).phase = .idle ∧ (idleWith 5 7 1 seed1).rc ≠ 0 ∧ (idleWith 5 7 1001 seed1).rc ≠ 0 ∧
    (idleWith 5 7 1 seed1).ck = (idleWith 5 7 1 seed1).key := by decide

theorem witness_GenerateSucceeds :
    (idleWith 5 7 1000 0).phase = .idle ∧ (idleWith 5 7 1000 0).rc ≠ 0 ∧ (idleWith 5 7 1000 0).rc.toNat ≤ 1000 ∧
    (idleWith 5 7 1 0).rc ≠ 0 ∧ (idleWith 5 7 1 0).rc.toNat ≤ 1000 ∧
    (idleWith 5 7 1000 0).ck = (idleWith 5 7 1000 0).key := by decide

/-- The clauses at their boundaries: LEN 31 and 33, RC 0 and 1, RC 1001. -/
theorem witness_FailedCommandHasNoEffect :
    (31 : Nat) < 32 ∧ 32 < (33 : Nat) ∧ (idleWith 0 0 0 0).phase = .idle ∧ (idleWith 0 0 0 0).rc = 0 ∧
    (idleWith 5 7 1 0).phase = .idle ∧ (idleWith 5 7 1 0).rc ≠ 0 ∧ (idleWith 5 7 1001 0).phase = .idle ∧
    1000 < (idleWith 5 7 1001 0).rc.toNat := by decide

theorem witness_CommandAnswersOnceWithItsStatus :
    (offering 0x0000008000000003 1 .command).phase = .idle ∧ (offering 0x0000008000000003 1 .command).level = .command ∧
    (offering 0x0000008000000003 1 .command).cmd = some 0x0000008000000003 ∧
    (offering 0x0000008000000003 1 .command).resetAsserted = false := by decide

theorem witness_OfferIsHeldWhileBusy : midGenerate.phase ≠ .idle ∧ ∃ t, step midGenerate = .next t := ⟨by decide, _, rfl⟩

/-- RC 0, 1, 1000 and 1001. -/
theorem witness_LifecycleTable :
    (idleWith 0 0 0 0).phase = .idle ∧ (idleWith 0 0 0 0).lifecycle hw = .uninstantiated ∧
    (idleWith 5 7 1 0).phase = .idle ∧ (idleWith 5 7 1 0).lifecycle hw = .ready ∧
    (idleWith 5 7 1000 0).lifecycle hw = .ready ∧ (∃ t, exec (.generate 0) (idleWith 5 7 1000 0) = .next t) ∧
    (idleWith 5 7 1001 0).phase = .idle ∧ (idleWith 5 7 1001 0).lifecycle hw = .exhausted ∧ (idleWith 5 7 1 0).rc = 1 :=
  ⟨by decide, by decide, by decide, by decide, by decide, ⟨_, rfl⟩, by decide⟩

theorem witness_InstantiateForgetsPriorState :
    (idleWith 0 0 0 seed1).phase = .idle ∧ (idleWith 5 7 1001 seed1).phase = .idle ∧
    (idleWith 0 0 0 seed1).seedw = (idleWith 5 7 1001 seed1).seedw ∧
    (∃ t, exec (.instantiate false 32) (idleWith 0 0 0 seed1) = .next t) ∧
    ∃ t, exec (.instantiate true 32) (idleWith 5 7 1001 seed1) = .next t :=
  ⟨by decide, by decide, by decide, ⟨_, rfl⟩, ⟨_, rfl⟩⟩

/-- Two idle states that differ in SEED word, latches and history, for GENERATE; and in latches only, for RESEED. -/
theorem witness_CommandsDependOnArchitecturalStateOnly :
    let s := idleWith 5 7 1 seed1
    let t := { idleWith 5 7 1 seed2 with opl := 3, bitsrem := 8, obs := [.out 0] }
    let u := { idleWith 5 7 1 seed1 with temp := 3 }
    phaseOf (.generate 128) = none ∧ phaseOf (.reseed false 32) = none ∧ s.phase = .idle ∧ t.phase = .idle ∧ u.phase = .idle ∧
    s.key = t.key ∧ s.v = t.v ∧ s.rc = t.rc ∧ s.ck = t.ck ∧ s.key = u.key ∧ s.v = u.v ∧ s.rc = u.rc ∧ s.ck = u.ck ∧
    s.seedw = u.seedw := by decide

theorem witness_FirstBlockIgnoresGranularity :
    (idleWith 5 7 1000 0).phase = .idle ∧ (idleWith 5 7 1000 0).lifecycle hw = .ready ∧ 1 ≤ (1 : Nat) := by decide

/-- The whole budget's two ends: nothing spent, one left and used, all spent. -/
theorem witness_ReseedBudgetIsExact :
    (idleWith 5 7 1 0).phase = .idle ∧ (idleWith 5 7 1 0).rc = BitVec.ofNat 32 1 ∧ 1 + ([128] : List Nat).length ≤ 1001 ∧
    (idleWith 5 7 1000 0).phase = .idle ∧ (idleWith 5 7 1000 0).rc = BitVec.ofNat 32 1000 ∧
    1000 + ([0] : List Nat).length = 1001 ∧ (idleWith 5 7 1001 0).phase = .idle ∧
    (idleWith 5 7 1001 0).rc = BitVec.ofNat 32 1001 ∧ 1001 + ([] : List Nat).length = 1001 := by decide

theorem witness_CipherCallCounts :
    (offering 0x0000002000000001 0 .command).phase = .idle ∧ (offering 0x0000002000000001 0 .command).level = .command ∧
    (offering 0x0000002000000001 0 .command).cmd = some 0x0000002000000001 ∧
    (offering 0x0000002000000001 0 .command).resetAsserted = false := by decide

/-- BITSREM 128 and its greatest value; 127 and 0. -/
theorem witness_GenEncWritesOneBlock :
    128 ≤ ({ midGenerate with bitsrem := 128 } : State).bitsrem.toNat ∧
    128 ≤ ({ midGenerate with bitsrem := 0xFFFFFFFF } : State).bitsrem.toNat ∧
    ({ midGenerate with bitsrem := 127 } : State).bitsrem.toNat < 128 ∧
    ({ midGenerate with bitsrem := 0 } : State).bitsrem.toNat < 128 := by decide

theorem witness_UpdEncAppendsOneBlock :
    (inPhase .updEnc 0 1).tlen = 0 ∧ ({ inPhase .updEnc 0 1 with tlen := 16 } : State).tlen = 16 ∧
    ({ inPhase .updEnc 0 1 with tlen := 32 } : State).tlen ≠ 0 ∧
    ({ inPhase .updEnc 0 1 with tlen := 32 } : State).tlen ≠ 16 := by decide

theorem witness_UpdXorMixesSeed : (0 : Nat) < 256 ∧ (255 : Nat) < 256 ∧ (inPhase .updXor 0 1).seedl = 0 := by decide

/-- No offer; a word refused; a word accepted. -/
theorem witness_IdleAcceptsOrRefuses :
    (idleWith 5 7 1 0).phase = .idle ∧ (idleWith 5 7 1 0).cmd = none ∧ (idleWith 5 7 1 0).offers = [] ∧
    (offering 0x0000008000000003 1001 .fsm).phase = .idle ∧
    (offering 0x0000008000000003 1001 .fsm).cmd = some 0x0000008000000003 ∧
    commandStatus hw 0x0000008000000003 (offering 0x0000008000000003 1001 .fsm).rc = some .reseedRequired ∧
    commandStatus hw 0x0000008000000003 1000 = none ∧ commandStatus hw 0x0000000000000003 1 = none ∧
    commandStatus hw 0x0000002000000011 0 = none ∧ commandStatus hw 0x0000002000000002 1001 = none := by decide

/-- Busy; idle at the FSM level; idle at the command level with no offer, a command, an illegal word. -/
theorem witness_StepRunsTheSelectedInstruction :
    midGenerate.resetAsserted = false ∧ midGenerate.phase ≠ .idle ∧
    (offering 3 1 .fsm).resetAsserted = false ∧ (offering 3 1 .fsm).level = .fsm ∧
    (idleWith 5 7 1 0).resetAsserted = false ∧ (idleWith 5 7 1 0).phase = .idle ∧ (idleWith 5 7 1 0).level = .command ∧
    (idleWith 5 7 1 0).cmd = none ∧ (offering 3 1 .command).phase = .idle ∧ (offering 3 1 .command).level = .command ∧
    (offering 3 1 .command).cmd = some 3 ∧ decodeCmd 3 = .ok (.generate 0) ∧
    decodeCmd 7 = .error .reservedOpcode := by decide

theorem witness_PlacedWordRunsNext :
    decodeTableWord 64 0x0000002000000001 = some (.instantiate false 32) ∧ decodeTableWord 8 0 = some .idle ∧
    decodeTableWord 8 8 = some .finish := by decide

theorem witness_ResetAbandonsTheCommand :
    ({ midGenerate with resetIn := [true, true] } : State).resetAsserted = true ∧
    ∃ t, step { midGenerate with resetIn := [true, true] } = .next t ∧ t.resetAsserted = true := ⟨by decide, _, rfl, rfl⟩

theorem witness_StepKeepsTheInvariant : midGenerate.Inv ∧ ∃ t, step midGenerate = .next t := ⟨midGenerate_inv, _, rfl⟩

theorem witness_SequencerIsNeverStuck : midGenerate.Inv := midGenerate_inv

theorem witness_PhaseStepsFollowTheGraph :
    midGenerate.Inv ∧ midGenerate.level = .fsm ∧ midGenerate.resetAsserted = false ∧ (∃ t, step midGenerate = .next t) ∧
    midUpdate.Inv ∧ midUpdate.level = .fsm ∧ midUpdate.resetAsserted = false ∧ ∃ t, step midUpdate = .next t :=
  ⟨midGenerate_inv, rfl, rfl, ⟨_, rfl⟩, midUpdate_inv, rfl, rfl, _, rfl⟩

/-- IDLE stays: nothing offered; an illegal word; a seed of 31 bytes. -/
theorem witness_PhaseStepsFollowTheGraph_idle_stays :
    waiting.Inv ∧ waiting.level = .fsm ∧ waiting.resetAsserted = false ∧ (∃ t, step waiting = .next t ∧ t.phase = .idle) ∧
    (∀ w, (offering w 1 .fsm).Inv ∧ (offering w 1 .fsm).level = .fsm ∧ (offering w 1 .fsm).resetAsserted = false) ∧
    (∃ t, step (offering 0 1 .fsm) = .next t ∧ t.phase = .idle) ∧
    ∃ t, step (offering 0x0000001F00000002 1 .fsm) = .next t ∧ t.phase = .idle :=
  ⟨waiting_inv, rfl, rfl, ⟨_, rfl, rfl⟩, fun w => ⟨offered_inv w, rfl, rfl⟩, ⟨_, rfl, by decide⟩, _, rfl, by decide⟩

/-- IDLE is left: INSTANTIATE; RESEED; GENERATE 0; GENERATE 1. -/
theorem witness_PhaseStepsFollowTheGraph_idle_leaves :
    (∃ t, step (offering 0x0000002000000001 1 .fsm) = .next t ∧ t.phase = .instZero) ∧
    (∃ t, step (offering 0x0000002000000002 1 .fsm) = .next t ∧ t.phase = .updIncr) ∧
    (∃ t, step (offering 0x0000000000000003 1 .fsm) = .next t ∧ t.phase = .updIncr) ∧
    ∃ t, step (offering 0x0000000100000003 1 .fsm) = .next t ∧ t.phase = .genIncr :=
  ⟨⟨_, rfl, by decide⟩, ⟨_, rfl, by decide⟩, ⟨_, rfl, by decide⟩, _, rfl, by decide⟩

/-- A step that changes KEY, CK and V; one that changes RC; a command as one step. -/
theorem witness_RegistersHaveTheirWritersOnly :
    (∃ t, step (inPhase .instZero 5 7) = .next t ∧ t.key ≠ (5 : Block) ∧ t.ck ≠ (5 : Block) ∧ t.v ≠ (7 : Block)) ∧
    (∃ t, step { inPhase .finish 5 7 with opl := 3 } = .next t ∧ t.rc ≠ (1 : BitVec 32)) ∧
    (inPhase .instZero 5 7).resetAsserted = false ∧ (offering 3 1 .command).resetAsserted = false ∧
    ∃ t, step (offering 3 1 .command) = .next t :=
  ⟨⟨_, rfl, by decide⟩, ⟨_, rfl, by decide⟩, by decide, by decide, _, rfl⟩

theorem witness_ObservationsOnlyGrow : ∃ t, step midGenerate = .next t := ⟨_, rfl⟩

/-- GEN_ENC; GENERATE 1 as one step, passing and refused; a reset; a step that is neither. -/
theorem witness_OutBytesAreCipherBytes :
    (midGenerate.resetAsserted = false ∧ midGenerate.phase = .genEnc ∧ ∃ t, step midGenerate = .next t) ∧
    ((offering 0x100000003 1000 .command).resetAsserted = false ∧ (offering 0x100000003 1000 .command).phase = .idle ∧
      (offering 0x100000003 1000 .command).level = .command ∧
      (offering 0x100000003 1000 .command).cmd = some 0x100000003 ∧ decodeCmd 0x100000003 = .ok (.generate 1) ∧
      commandStatus hw 0x100000003 (offering 0x100000003 1000 .command).rc = none ∧
      ∃ t, step (offering 0x100000003 1000 .command) = .next t) ∧
    (commandStatus hw 0x100000003 (offering 0x100000003 1001 .command).rc ≠ none ∧
      ∃ t, step (offering 0x100000003 1001 .command) = .next t) ∧
    (({ midGenerate with resetIn := [true] } : State).resetAsserted = true ∧
      ∃ t, step { midGenerate with resetIn := [true] } = .next t) ∧
    (fetch midUpdate ≠ .genEnc ∧ (∀ L, fetch midUpdate ≠ .generate L) ∧ ∃ t, step midUpdate = .next t) :=
  ⟨⟨rfl, rfl, _, rfl⟩, ⟨rfl, rfl, rfl, rfl, by decide, by decide, _, rfl⟩, ⟨by decide, _, rfl⟩, ⟨rfl, _, rfl⟩,
    by decide, fun _ => by simp [show fetch midUpdate = .updEnc from rfl], _, rfl⟩

theorem witness_RangeErrorIsNeverDelivered : ∃ t, step (offering 3 0 .command) = .next t := ⟨_, rfl⟩

/-- An acceptance at the FSM level with every latch zero: INSTANTIATE, RESEED, GENERATE. -/
theorem witness_PhaseMachineRefinesCommandLevel :
    let s := offering 0x0000008800000003 1 .fsm
    s.level = .fsm ∧ s.phase = .idle ∧ s.resetIn = [] ∧ s.opl = 0 ∧ s.bitsrem = 0 ∧ s.seedl = 0 ∧ s.temp = 0 ∧ s.tlen = 0 ∧
    s.cmd = some 0x0000008800000003 ∧ decodeCmd 0x0000008800000003 = .ok (.generate 136) ∧
    decodeCmd 0x0000002000000001 = .ok (.instantiate false 32) ∧
    decodeCmd 0x0000002000000002 = .ok (.reseed false 32) := by decide

theorem witness_PhaseSequences :
    let s := offering 0x0000008800000003 1 .fsm
    s.level = .fsm ∧ s.phase = .idle ∧ s.resetIn = [] ∧ s.cmd = some 0x0000008800000003 ∧
    stepsAfterAcceptance hw 0x0000008800000003 s.rc = 11 := by decide

theorem witness_EveryAcceptedCommandFinishes :
    midGenerate.Inv ∧ midGenerate.phase ≠ .idle ∧ midGenerate.resetIn = [] := ⟨midGenerate_inv, by decide, rfl⟩

/-- Cut short at the first step, and not at all. -/
theorem witness_InterruptedOutputIsAPrefix :
    let s := offering 0x0000000800000003 1 .fsm
    s.level = .fsm ∧ s.phase = .idle ∧ s.resetIn = [] ∧ s.opl = 0 ∧ s.bitsrem = 0 ∧ s.seedl = 0 ∧ s.temp = 0 ∧ s.tlen = 0 ∧
    s.cmd = some 0x0000000800000003 ∧ decodeCmd 0x0000000800000003 = .ok (.generate 8) ∧
    10 ≤ 1 + stepsAfterAcceptance hw 0x0000000800000003 s.rc ∧ (∃ t, run 0 s = .next t) ∧ ∃ t, run 10 s = .next t :=
  ⟨by decide, by decide, by decide, by decide, by decide, by decide, by decide, by decide, by decide, by decide, by decide,
    ⟨_, rfl⟩, _, rfl⟩

end Sys2Proof.Tests
end

/-! ## The two levels agree (O46) -/

namespace Sys2Proof.Machine

/-! ### Runs of the phase machine -/

/-- One step of a run at the FSM level, or while busy: the phase in PHASE (R90, R173). -/
theorem run_succ_of_phase {s t : State} (hr : s.resetIn = []) (hp : s.phase ≠ .idle ∨ s.level = .fsm)
    (h : exec s.phase.instr s = .next t) (n : Nat) : run (n + 1) s = run n t := by
  have hstep : step s = .next t := by
    rw [step_of_no_reset (by simp [State.resetAsserted, hr]), fetch_of_phase hp, tick_eq_self hr, h]
  simp only [run, hstep]

/-! ### One step in each phase (R178 to R185) -/

theorem run_instZero {s : State} (hr : s.resetIn = []) (hp : s.phase = .instZero) (n : Nat) :
    run (n + 1) s = run n ((s.commitKeyV 0 0).goto .updIncr) :=
  run_succ_of_phase hr (.inl (by simp [hp])) (by rw [hp]; rfl) n

theorem run_genIncr {s : State} (hr : s.resetIn = []) (hp : s.phase = .genIncr) (n : Nat) :
    run (n + 1) s = run n (s.incrV.goto .genEnc) :=
  run_succ_of_phase hr (.inl (by simp [hp])) (by rw [hp]; rfl) n

theorem run_genEnc {s : State} (hr : s.resetIn = []) (hp : s.phase = .genEnc) (n : Nat) :
    run (n + 1) s = run n ((((s.cipherEncrypt hw s.v).memWriteOut (blockOutput hw s.bitsrem (hw.E s.ck s.v))).setBitsrem
      (bitsAfterBlock hw s.bitsrem)).goto (if bitsAfterBlock hw s.bitsrem = 0 then .updIncr else .genIncr)) :=
  run_succ_of_phase hr (.inl (by simp [hp])) (by rw [hp]; rfl) n

theorem run_updIncr {s : State} (hr : s.resetIn = []) (hp : s.phase = .updIncr) (n : Nat) :
    run (n + 1) s = run n (s.incrV.goto .updEnc) :=
  run_succ_of_phase hr (.inl (by simp [hp])) (by rw [hp]; rfl) n

theorem run_updEnc_first {s : State} (hr : s.resetIn = []) (hp : s.phase = .updEnc) (ht : s.tlen = 0) (n : Nat) :
    run (n + 1) s = run n (((s.cipherEncrypt hw s.v).setTemp (hw.E s.ck s.v ++ tempLow s.temp) 16).goto .updIncr) :=
  run_succ_of_phase hr (.inl (by simp [hp]))
    (by simp [hp, Phase.instr, exec, execUpdEnc, updEnc, ht, appendBlock]) n

theorem run_updEnc_second {s : State} (hr : s.resetIn = []) (hp : s.phase = .updEnc) (ht : s.tlen = 16) (n : Nat) :
    run (n + 1) s = run n (((s.cipherEncrypt hw s.v).setTemp (tempHigh s.temp ++ hw.E s.ck s.v) 32).goto .updXor) :=
  run_succ_of_phase hr (.inl (by simp [hp]))
    (by simp [hp, Phase.instr, exec, execUpdEnc, updEnc, ht, appendBlock]) n

theorem run_updXor {s : State} (hr : s.resetIn = []) (hp : s.phase = .updXor) (n : Nat) :
    run (n + 1) s = run n ((s.setTemp (s.temp ^^^ s.seedl) s.tlen).goto .updCommit) :=
  run_succ_of_phase hr (.inl (by simp [hp])) (by rw [hp]; rfl) n

theorem run_updCommit {s : State} (hr : s.resetIn = []) (hp : s.phase = .updCommit) (n : Nat) :
    run (n + 1) s = run n ((s.commitKeyV (tempHigh s.temp) (tempLow s.temp)).scrubUpdate.goto .finish) :=
  run_succ_of_phase hr (.inl (by simp [hp])) (by rw [hp]; rfl) n

theorem run_finish {s : State} (hr : s.resetIn = []) (hp : s.phase = .finish) (n : Nat) :
    run (n + 1) s =
      run n (((s.setRc (if s.opl = 3 then s.rc + 1 else 1)).memWriteRsp 0).scrubCommand.goto .idle) :=
  run_succ_of_phase hr (.inl (by simp [hp])) (by rw [hp]; rfl) n

/-! ### The update FSM (R181 to R184) -/

/-- What the six steps of the update do with the bytes of a seed word, in registers (R125, R126). -/
theorem updateSteps_seedBytes (w : SeedWord) (s : State) :
    updateSteps hw (seedBytes w) s =
      ({ s with v := s.v + 2, ciph := s.ciph ++ encryptionsUpTo hw s.ck s.v 2 } : State).commitKeyV
        (hw.E s.ck (s.v + 1) ^^^ tempHigh w) (hw.E s.ck (s.v + 2) ^^^ tempLow w) := by
  rw [updateSteps_eq hw_wf (length_seedBytes w), seedBytes_eq_halves, List.take_left' (by simp),
    List.drop_left' (by simp), blockOf_blockBytes, blockOf_blockBytes]

/-- The six steps of the update FSM are the update with SEEDL as its seed material, and clear its latches (R121 to R126,
R181 to R184). -/
theorem run_updateFsm {s : State} (hr : s.resetIn = []) (hp : s.phase = .updIncr) (ht : s.tlen = 0) (n : Nat) :
    run (n + 6) s = run n ((updateSteps hw (seedBytes s.seedl) s).scrubUpdate.goto .finish) := by
  rw [run_updIncr hr hp, run_updEnc_first (by simp [hr]) rfl (by simp [ht]), run_updIncr (by simp [hr]) rfl,
    run_updEnc_second (by simp [hr]) rfl rfl, run_updXor (by simp [hr]) rfl, run_updCommit (by simp [hr]) rfl,
    updateSteps_seedBytes]
  refine congrArg (run n) ?_
  apply State.ext_fields <;> simp [encryptionsUpTo_two, BitVec.add_assoc]

/-! ### Latches -/

/-- The state with PHASE in IDLE and every latch zero, as between two commands (R187 c). -/
def State.atRest (s : State) : State := s.scrubUpdate.scrubCommand.goto .idle

theorem atRest_eq_self {s : State} (hp : s.phase = .idle) (ho : s.opl = 0) (hb : s.bitsrem = 0) (hs : s.seedl = 0)
    (ht : s.temp = 0) (hl : s.tlen = 0) : s.atRest = s := by
  apply State.ext_fields <;> simp [State.atRest, *]

@[simp] theorem atRest_goto (s : State) (p : Phase) : (s.goto p).atRest = s.atRest := rfl

@[simp] theorem atRest_setBitsrem (s : State) (n : BitVec 32) : (s.setBitsrem n).atRest = s.atRest := rfl

@[simp] theorem atRest_latchCommand (s : State) (w : CmdWord) (sw : SeedWord) :
    (s.latchCommand w sw).atRest = s.atRest := rfl

@[simp] theorem atRest_commitKeyV (s : State) (k x : Block) : (s.commitKeyV k x).atRest = s.atRest.commitKeyV k x := rfl

theorem atRest_nextOffer (s : State) : s.nextOffer.atRest = s.atRest.nextOffer := by
  cases h : s.offers with
  | nil => rw [nextOffer_nil s h, nextOffer_nil s.atRest h]; rfl
  | cons o rest => rw [nextOffer_cons s o rest h, nextOffer_cons s.atRest o rest h]; rfl

@[simp] theorem atRest_acceptOffer (s : State) : s.acceptOffer.atRest = s.atRest.acceptOffer := by
  rw [State.acceptOffer, State.acceptOffer, ← atRest_nextOffer]
  rfl

/-- The update FSM and FINISH carry out the update of the command level on the same registers, write RC, answer OK and
leave the sequencer at rest (R121 to R126, R174, R181 to R185). -/
theorem run_updateFsm_finish {s : State} (hr : s.resetIn = []) (hp : s.phase = .updIncr) (ht : s.tlen = 0) :
    run 7 s = .next (((updateSteps hw (seedBytes s.seedl) s.atRest).setRc
      (if s.opl = 3 then s.rc + 1 else 1)).memWriteRsp 0) := by
  rw [run_updateFsm hr hp ht 1, updateSteps_seedBytes, updateSteps_seedBytes, run_finish (by simp [hr]) rfl]
  refine congrArg Host.Outcome.next ?_
  apply State.ext_fields
  case hrc => rfl
  all_goals simp [State.atRest]

/-! ### Truncation block by block (R60, R180) -/

/-- The mask falls on the last byte, so bytes before a last part are kept. -/
theorem maskLast_append (mask : Byte) (A : List Byte) {B : List Byte} (hB : B ≠ []) :
    maskLast mask (A ++ B) = A ++ maskLast mask B := by
  induction A with
  | nil => rfl
  | cons a A ih =>
    obtain ⟨c, C, hC⟩ : ∃ c C, A ++ B = c :: C := List.exists_cons_of_ne_nil (by simp [hB])
    rw [List.cons_append, List.cons_append, ← ih, hC, maskLast]

/-- The full mask keeps every bit. -/
theorem maskLast_full (B : List Byte) : maskLast 0xFF B = B := by
  induction B using List.reverseRecOn with
  | nil => rfl
  | append_singleton B b =>
    rw [maskLast_append _ _ (by simp), maskLast, show (0xFF : Byte) = BitVec.allOnes 8 from rfl, BitVec.and_allOnes]

/-- The leftmost `8 k` bits of `k` bytes are the bytes. -/
theorem leftmostBits_all (B : List Byte) : leftmostBits (8 * B.length) B = B := by
  rw [leftmostBits, lastMask, if_pos (by omega), List.take_of_length_le (by rw [outBytes]; omega), maskLast_full]

/-- Whole bytes go out before the truncated rest. -/
theorem leftmostBits_append (A : List Byte) {B : List Byte} {L : Nat} (hL : 0 < L) (hB : B ≠ []) :
    leftmostBits (8 * A.length + L) (A ++ B) = A ++ leftmostBits L B := by
  have hmask : lastMask (8 * A.length + L) = lastMask L := by simp [lastMask]
  have hbytes : outBytes (8 * A.length + L) = A.length + outBytes L := by simp only [outBytes]; omega
  have hrest : B.take (outBytes L) ≠ [] := by simp [hB, outBytes]; omega
  rw [leftmostBits, hmask, hbytes, List.take_length_add_append, maskLast_append _ _ hrest, leftmostBits]

/-- GEN_ENC writes the leftmost `min(BITSREM, 128)` bits of its block (R180). -/
theorem blockOutput_of_le {bits : BitVec 32} (h : bits.toNat ≤ 128) (blk : Block) :
    blockOutput hw bits blk = leftmostBits bits.toNat (blockBytes blk) := by
  by_cases h128 : bits.toNat = 128
  · have := leftmostBits_all (blockBytes blk)
    rw [length_blockBytes] at this
    rw [blockOutput, if_pos (by simp [h128, hw]), h128, this]
  · rw [blockOutput, if_neg (by simp [hw]; omega)]

theorem blockOutput_of_ge {bits : BitVec 32} (h : 128 ≤ bits.toNat) (blk : Block) :
    blockOutput hw bits blk = blockBytes blk := if_pos h

theorem bitsAfterBlock_of_le {bits : BitVec 32} (h : bits.toNat ≤ 128) : bitsAfterBlock hw bits = 0 := by
  by_cases h128 : bits.toNat = 128
  · obtain rfl : bits = 128 := BitVec.eq_of_toNat_eq h128
    rfl
  · exact if_neg (by simp [hw]; omega)

theorem toNat_bitsAfterBlock_of_ge {bits : BitVec 32} (h : 128 ≤ bits.toNat) :
    (bitsAfterBlock hw bits).toNat = bits.toNat - 128 := by
  rw [bitsAfterBlock, if_pos (show hw.outlenBits ≤ bits.toNat from h), BitVec.toNat_sub_of_le h]
  rfl

/-! ### The output loop (R150, R179, R180) -/

/-- One pass of the output loop: V incremented, encrypted, and `B` put on OUT. -/
def State.outputPass (B : List Byte) (s : State) : State := (s.incrV.cipherEncrypt hw s.incrV.v).memWriteOut B

/-- The output of GENERATE of `L` bits: its passes, and its truncated blocks put on OUT (R150). -/
def State.makeOutput (L : Nat) (s : State) : State :=
  let made := encryptPasses hw (outBlocks hw L) [] s
  made.2.memWriteOut (leftmostBits L made.1)

theorem generateEffect_eq (L : Nat) (s : State) :
    generateEffect hw L s = (updateSteps hw (zeroBytes hw.seedlenBytes) (s.makeOutput L)).setRc (s.rc + 1) := rfl

theorem makeOutput_eq (L : Nat) (s : State) :
    s.makeOutput L =
      ({ s with
          v := s.v + BitVec.ofNat 128 (outBlocks hw L)
          ciph := s.ciph ++ encryptionsUpTo hw s.ck s.v (outBlocks hw L) } : State).memWriteOut
        (leftmostBits L (blocksUpTo hw s.ck s.v (outBlocks hw L))) := by
  simp only [State.makeOutput, encryptPasses_eq, List.nil_append]

@[simp] theorem makeOutput_rc (L : Nat) (s : State) : (s.makeOutput L).rc = s.rc := by rw [makeOutput_eq]; rfl
@[simp] theorem makeOutput_opl (L : Nat) (s : State) : (s.makeOutput L).opl = s.opl := by rw [makeOutput_eq]; rfl
@[simp] theorem makeOutput_seedl (L : Nat) (s : State) : (s.makeOutput L).seedl = s.seedl := by rw [makeOutput_eq]; rfl
@[simp] theorem makeOutput_tlen (L : Nat) (s : State) : (s.makeOutput L).tlen = s.tlen := by rw [makeOutput_eq]; rfl
@[simp] theorem makeOutput_resetIn (L : Nat) (s : State) : (s.makeOutput L).resetIn = s.resetIn := by
  rw [makeOutput_eq]; rfl

@[simp] theorem makeOutput_goto (L : Nat) (s : State) (p : Phase) :
    (s.goto p).makeOutput L = (s.makeOutput L).goto p := by
  simp only [makeOutput_eq]; rfl

@[simp] theorem makeOutput_setBitsrem (L : Nat) (s : State) (n : BitVec 32) :
    (s.setBitsrem n).makeOutput L = (s.makeOutput L).setBitsrem n := by
  simp only [makeOutput_eq]; rfl

@[simp] theorem atRest_makeOutput (L : Nat) (s : State) : (s.makeOutput L).atRest = s.atRest.makeOutput L := by
  simp only [makeOutput_eq]; rfl

theorem makeOutput_zero (s : State) : s.makeOutput 0 = s := by
  have hnone : leftmostBits 0 [] = [] := rfl
  apply State.ext_fields <;> simp [State.makeOutput, encryptPasses, hnone]

/-- One block is enough for up to 128 bits. -/
theorem makeOutput_last {L : Nat} (h0 : 0 < L) (h : L ≤ 128) (s : State) :
    s.makeOutput L = s.outputPass (leftmostBits L (blockBytes (hw.E s.ck (s.v + 1)))) := by
  have hm : outBlocks hw L = 1 := by rw [outBlocks_hw]; omega
  simp [State.makeOutput, State.outputPass, hm, encryptPasses]

/-- Beyond 128 bits a whole block goes out, then the rest. -/
theorem makeOutput_add {L : Nat} (h0 : 0 < L) (s : State) :
    s.makeOutput (128 + L) = (s.outputPass (blockBytes (hw.E s.ck (s.v + 1)))).makeOutput L := by
  obtain ⟨m, hm⟩ : ∃ m, outBlocks hw L = m := ⟨_, rfl⟩
  have hm' : outBlocks hw (128 + L) = m + 1 := by rw [← hm, outBlocks_hw, outBlocks_hw]; omega
  have hrest : blocksUpTo hw s.ck (s.v + 1) m ≠ [] := by
    rw [outBlocks_hw] at hm
    rw [← List.length_pos_iff, length_blocksUpTo]
    omega
  have hout : leftmostBits (128 + L) (blockBytes (hw.E s.ck (s.v + 1)) ++ blocksUpTo hw s.ck (s.v + 1) m) =
      blockBytes (hw.E s.ck (s.v + 1)) ++ leftmostBits L (blocksUpTo hw s.ck (s.v + 1) m) := by
    simpa only [length_blockBytes] using leftmostBits_append (blockBytes (hw.E s.ck (s.v + 1))) h0 hrest
  have hblock : blockAt hw s.ck s.v 1 = hw.E s.ck (s.v + 1) := rfl
  simp only [makeOutput_eq, hm, hm', blocksUpTo_succ, encryptionsUpTo_succ, hblock, hout]
  apply State.ext_fields <;> simp [State.outputPass, BitVec.add_assoc, BitVec.ofNat_add, BitVec.add_comm 1#128]

/-- GEN_INCR and GEN_ENC are one pass of the output loop (R179, R180). -/
theorem run_outputPass {s : State} (hr : s.resetIn = []) (hp : s.phase = .genIncr) (n : Nat) :
    run (n + 2) s = run n (((s.outputPass (blockOutput hw s.bitsrem (hw.E s.ck (s.v + 1)))).setBitsrem
      (bitsAfterBlock hw s.bitsrem)).goto (if bitsAfterBlock hw s.bitsrem = 0 then .updIncr else .genIncr)) := by
  rw [run_genIncr hr hp, run_genEnc (by simp [hr]) rfl]
  rfl

/-- The output loop of the phase machine puts the same bytes on OUT, with the same encryptions, as GENERATE does in one
step, and goes on to the update (R150, R174, R180). -/
theorem run_outputLoop {s : State} (hr : s.resetIn = []) (hp : s.phase = .genIncr) (hb : s.bitsrem ≠ 0) (n : Nat) :
    run (2 * outBlocks hw s.bitsrem.toNat + n) s =
      run n (((s.makeOutput s.bitsrem.toNat).setBitsrem 0).goto .updIncr) := by
  have hpos : 0 < s.bitsrem.toNat := Nat.pos_of_ne_zero fun h => hb (BitVec.eq_of_toNat_eq h)
  induction hm : outBlocks hw s.bitsrem.toNat generalizing s with
  | zero => rw [outBlocks_hw] at hm; omega
  | succ m ih =>
    rw [show 2 * (m + 1) + n = 2 * m + n + 2 by omega, run_outputPass hr hp]
    by_cases hlast : s.bitsrem.toNat ≤ 128
    · obtain rfl : m = 0 := by rw [outBlocks_hw] at hm; omega
      rw [bitsAfterBlock_of_le hlast, if_pos rfl, blockOutput_of_le hlast, makeOutput_last hpos hlast,
        Nat.mul_zero, Nat.zero_add]
    · have hge : 128 ≤ s.bitsrem.toNat := by omega
      have hleft := toNat_bitsAfterBlock_of_ge hge
      have hne : bitsAfterBlock hw s.bitsrem ≠ 0 := fun h => by simp [h] at hleft; omega
      obtain ⟨L, hL⟩ : ∃ L, s.bitsrem.toNat = 128 + L := ⟨s.bitsrem.toNat - 128, by omega⟩
      rw [hL, Nat.add_sub_cancel_left] at hleft
      rw [if_neg hne, blockOutput_of_ge hge, hL, makeOutput_add (by omega), ih (by simp [hr, State.outputPass]) rfl hne]
      · simp only [goto_bitsrem, setBitsrem_bitsrem, hleft, makeOutput_goto, makeOutput_setBitsrem]
        simp only [State.goto, State.setBitsrem]
      · simp only [goto_bitsrem, setBitsrem_bitsrem, hleft]; omega
      · simp only [goto_bitsrem, setBitsrem_bitsrem, hleft]
        rw [outBlocks_hw] at hm ⊢
        omega

/-! ### From the acceptance to the answer -/

/-- At the FSM level, in IDLE with every latch zero (R187 c), with `w` offered and no reset coming. -/
structure State.OfferedAtRest (s : State) (w : CmdWord) : Prop where
  level : s.level = .fsm
  phase : s.phase = .idle
  noReset : s.resetIn = []
  rest : s.atRest = s
  offer : s.cmd = some w

section
variable {s : State} {w : CmdWord}

/-- The first step of a command is its acceptance (R175, R176). -/
theorem run_accept (h : s.OfferedAtRest w) (n : Nat) : run (1 + n) s = run n (acceptCommand hw w s) := by
  rw [Nat.add_comm]
  refine run_succ_of_phase h.noReset (.inr h.level) ?_ n
  simp only [h.phase, Phase.instr, exec, execIdle, idle, h.offer]
  rw [if_neg (by simp [h.phase])]

theorem acceptCommand_failed {x : ErrorKind} (h : commandStatus hw w s.rc = some x) :
    acceptCommand hw w s = s.acceptOffer.raiseError x := by simp only [acceptCommand, h]

theorem acceptCommand_passed (h : commandStatus hw w s.rc = none) :
    acceptCommand hw w s = s.acceptOffer.latchCommand w s.seedw := by simp only [acceptCommand, h]

theorem stepsAfterAcceptance_failed {x : ErrorKind} (h : commandStatus hw w s.rc = some x) :
    stepsAfterAcceptance hw w s.rc = 0 := by simp only [stepsAfterAcceptance, h]

theorem stepsAfterAcceptance_passed (h : commandStatus hw w s.rc = none) :
    stepsAfterAcceptance hw w s.rc =
      if cmdOp w = 1 then 8 else if cmdOp w = 2 then 7 else 2 * outBlocks hw (cmdLen w) + 7 := by
  simp only [stepsAfterAcceptance, h]

/-- A command that fails its checks does the same at both levels, so the levels agree once they do where it passes. -/
theorem run_eq_runCommand (h : s.OfferedAtRest w) {effect : State → State}
    (hpassed : commandStatus hw w s.rc = none →
      run (1 + stepsAfterAcceptance hw w s.rc) s = .next ((effect s.acceptOffer).memWriteRsp 0)) :
    run (1 + stepsAfterAcceptance hw w s.rc) s = runCommand s (commandStatus hw w s.rc) effect := by
  cases hst : commandStatus hw w s.rc with
  | none => rw [runCommand_passed h.phase, hpassed hst]
  | some x => rw [runCommand_failed h.phase, stepsAfterAcceptance_failed hst, run_accept h, acceptCommand_failed hst, run]

/-- The word on SEED is read whole (R53). -/
theorem memReadSeed_seedlen (s : State) : s.memReadSeed hw.seedlenBytes = seedBytes s.seedw :=
  List.take_of_length_le (by simp)

/-- GENERATE's zero seed material as a seed word (R164). -/
theorem seedBytes_zero : seedBytes 0#256 = zeroBytes 32 := by
  rw [seedBytes_eq_halves, tempHigh_zero, tempLow_zero]
  exact zeroBytes_32.symm

theorem run_instantiate (h : s.OfferedAtRest w) (hop : cmdOp w = 1) (hst : commandStatus hw w s.rc = none) :
    run (1 + 8) s = .next ((instantiateEffect hw (s.memReadSeed hw.seedlenBytes) s.acceptOffer).memWriteRsp 0) := by
  rw [run_accept h, acceptCommand_passed hst, run_instZero (by simp [h.noReset]) (by simp [firstPhase, hop]),
    run_updateFsm_finish (by simp [h.noReset]) rfl rfl, memReadSeed_seedlen]
  simp [instantiateEffect, hop, h.rest]

theorem run_reseed (h : s.OfferedAtRest w) (hop : cmdOp w = 2) (hst : commandStatus hw w s.rc = none) :
    run (1 + 7) s = .next ((reseedEffect hw (s.memReadSeed hw.seedlenBytes) s.acceptOffer).memWriteRsp 0) := by
  rw [run_accept h, acceptCommand_passed hst,
    run_updateFsm_finish (by simp [h.noReset]) (by simp [firstPhase, hop]) rfl, memReadSeed_seedlen]
  simp [reseedEffect, hop, h.rest]

/-- The latched GENERATE reaches the update with its output made, at once when no bit is asked for (R150, R175). -/
theorem run_generateOutput (h : s.OfferedAtRest w) (hop : cmdOp w = 3) (n : Nat) :
    run (2 * outBlocks hw (cmdLen w) + n) (s.acceptOffer.latchCommand w s.seedw) =
      run n ((((s.acceptOffer.latchCommand w s.seedw).makeOutput (cmdLen w)).setBitsrem 0).goto .updIncr) := by
  have hbits : (s.acceptOffer.latchCommand w s.seedw).bitsrem.toNat = cmdLen w := by
    rw [latchCommand_bitsrem, if_pos hop, BitVec.toNat_ofNat, Nat.mod_eq_of_lt (cmdLen_lt w)]
  rcases Nat.eq_zero_or_pos (cmdLen w) with h0 | hpos
  · rw [h0, makeOutput_zero, show outBlocks hw 0 = 0 from rfl, Nat.mul_zero, Nat.zero_add]
    refine congrArg (run n) ?_
    apply State.ext_fields <;> simp [firstPhase, hop, h0]
  · rw [← hbits]
    refine run_outputLoop (by simp [h.noReset]) (by simp [firstPhase, hop, hpos]) (fun h0 => ?_) n
    rw [h0] at hbits
    simp at hbits; omega

theorem run_generate (h : s.OfferedAtRest w) (hop : cmdOp w = 3) (hst : commandStatus hw w s.rc = none) :
    run (1 + (2 * outBlocks hw (cmdLen w) + 7)) s =
      .next ((generateEffect hw (cmdLen w) s.acceptOffer).memWriteRsp 0) := by
  rw [run_accept h, acceptCommand_passed hst, run_generateOutput h hop,
    run_updateFsm_finish (by simp [h.noReset]) rfl (by simp)]
  simp [generateEffect_eq, hop, h.rest, seedBytes_zero]

end

/-- Settles O46: a command that fails is answered at its acceptance at both levels; one that passes runs INST_ZERO, the
output loop and the update FSM, each of which does what its part of the command does in one step. -/
theorem phaseMachineRefinesCommandLevel : Obligations.PhaseMachineRefinesCommandLevel := by
  intro s w i hlevel hphase hreset hopl hbits hseedl htemp htlen hcmd hdec
  have h : s.OfferedAtRest w := ⟨hlevel, hphase, hreset, atRest_eq_self hphase hopl hbits hseedl htemp htlen, hcmd⟩
  obtain ⟨hrsv, ⟨hop, rfl⟩ | ⟨hop, rfl⟩ | ⟨hop, heos, rfl⟩⟩ := decodeCmd_cases hdec
  · have hexec : exec (.instantiate (cmdEos w) (cmdLen w)) s = runCommand s (commandStatus hw w s.rc)
        (instantiateEffect hw (s.memReadSeed hw.seedlenBytes)) := by
      rw [commandStatus_instantiate s.rc hop hrsv]; rfl
    rw [hexec]
    refine run_eq_runCommand h fun hst => ?_
    rw [stepsAfterAcceptance_passed hst, if_pos hop, run_instantiate h hop hst]
  · have hexec : exec (.reseed (cmdEos w) (cmdLen w)) s = runCommand s (commandStatus hw w s.rc)
        (reseedEffect hw (s.memReadSeed hw.seedlenBytes)) := by
      rw [commandStatus_reseed s hop hrsv]; rfl
    rw [hexec]
    refine run_eq_runCommand h fun hst => ?_
    rw [stepsAfterAcceptance_passed hst, if_neg (by simp [hop]), if_pos hop, run_reseed h hop hst]
  · have hexec : exec (.generate (cmdLen w)) s = runCommand s (commandStatus hw w s.rc)
        (generateEffect hw (cmdLen w)) := by
      rw [commandStatus_generate s hop heos hrsv]; rfl
    rw [hexec]
    refine run_eq_runCommand h fun hst => ?_
    rw [stepsAfterAcceptance_passed hst, if_neg (by simp [hop]), if_neg (by simp [hop]), run_generate h hop hst]

end Sys2Proof.Machine

/-! ## What a step runs (O34, O35) -/

namespace Sys2Proof.Machine

theorem eq_ok_of_toOption {r : Except DecodeError Instr} {i : Instr} (h : r.toOption = some i) : r = .ok i := by
  cases r with
  | ok j => rw [Option.some.inj h]
  | error e => cases h

/-- A PHASE code that decodes selects a phase, which runs the instruction the code decodes to (R90). -/
theorem decodePhase_cases {p : BitVec 4} {i : Instr} (h : decodePhase p = .ok i) :
    ∃ ph : Phase, phaseOf i = some ph ∧ ph.instr = i := by
  unfold decodePhase at h
  split at h <;> cases h <;> exact ⟨_, rfl, rfl⟩

theorem placePhase_eq {p : BitVec 4} {i : Instr} {ph : Phase} (h : decodePhase p = .ok i) (hph : phaseOf i = some ph)
    (s : State) : s.placePhase p = { s with phase := ph, level := .fsm, resetIn := false :: s.resetIn.tail } := by
  simp only [State.placePhase, h, Except.toOption, Option.bind_some, hph]

theorem offeredInstr_ok {w : CmdWord} {i : Instr} (h : decodeCmd w = .ok i) : offeredInstr (some w) = i := by
  simp only [offeredInstr, h]

theorem offeredInstr_error {w : CmdWord} {e : DecodeError} (h : decodeCmd w = .error e) :
    offeredInstr (some w) = .idle := by
  simp only [offeredInstr, h]

/-- The instruction a table word decodes to is the next one once the word is placed. -/
theorem fetch_withFetchWord {nbits w : Nat} {i : Instr} (h : decodeTableWord nbits w = some i) (s : State) :
    (s.withFetchWord nbits w).resetAsserted = false ∧ fetch (s.withFetchWord nbits w) = i := by
  unfold decodeTableWord at h
  unfold State.withFetchWord
  split_ifs at h ⊢ with hn
  · have hdec := eq_ok_of_toOption h
    obtain ⟨ph, hph, hinstr⟩ := decodePhase_cases hdec
    rw [placePhase_eq hdec hph]
    exact ⟨rfl, (fetch_of_phase (.inr rfl)).trans hinstr⟩
  · exact ⟨rfl, (fetch_of_offer rfl rfl).trans (offeredInstr_ok (eq_ok_of_toOption h))⟩

/-- Settles O34: PHASE selects while busy and at the FSM level, and the offered word in IDLE at the command level. -/
theorem stepRunsTheSelectedInstruction : Obligations.StepRunsTheSelectedInstruction := by
  intro s hreset
  have hstep : step s = exec (fetch s) { s with resetIn := s.resetIn.tail } := step_of_no_reset hreset
  refine ⟨fun hphase => ?_, fun hidle hlevel hcmd => ?_, fun w hidle hlevel hcmd => ⟨fun i hdec => ?_, fun e hdec => ?_⟩⟩
  · rw [hstep, fetch_of_phase hphase]
  · rw [hstep, fetch_of_offer hidle hlevel, hcmd]; rfl
  · rw [hstep, fetch_of_offer hidle hlevel, hcmd, offeredInstr_ok hdec]
  · rw [hstep, fetch_of_offer hidle hlevel, hcmd, offeredInstr_error hdec]

/-- Settles O35: a phase code stands in PHASE at the FSM level, a command word on CMD at the command level, and either is
what `fetch` reads. -/
theorem placedWordRunsNext : Obligations.PlacedWordRunsNext := by
  intro s nbits w i h
  obtain ⟨hreset, hfetch⟩ := fetch_withFetchWord h s
  exact ⟨hreset, by rw [step_of_no_reset hreset, hfetch]⟩

end Sys2Proof.Machine

/-! ## Commands depend on the architectural state only (O22) -/

namespace Sys2Proof.Machine

/-- Two executions, from `s₁` to `t₁` and from `s₂` to `t₂`, that leave the same KEY, V, RC and CK, and between which
neither the host nor the cipher can tell a difference (R18, R56). -/
structure Indistinguishable (s₁ s₂ t₁ t₂ : State) : Prop where
  key : t₁.key = t₂.key
  v : t₁.v = t₂.v
  rc : t₁.rc = t₂.rc
  ck : t₁.ck = t₂.ck
  seen : ∃ seen, t₁.obs = s₁.obs ++ seen ∧ t₂.obs = s₂.obs ++ seen
  made : ∃ made, t₁.ciph = s₁.ciph ++ made ∧ t₂.ciph = s₂.ciph ++ made

namespace Indistinguishable

variable {s₁ s₂ t₁ t₂ : State}

theorem start (hkey : s₁.key = s₂.key) (hv : s₁.v = s₂.v) (hrc : s₁.rc = s₂.rc) (hck : s₁.ck = s₂.ck) :
    Indistinguishable s₁ s₂ s₁ s₂ := ⟨hkey, hv, hrc, hck, ⟨[], by simp⟩, ⟨[], by simp⟩⟩

/-- The same events on both sides keep the observations alike. -/
theorem append_alike {α : Type} {x₁ x₂ y₁ y₂ : List α} (h : ∃ more, y₁ = x₁ ++ more ∧ y₂ = x₂ ++ more) (last : List α) :
    ∃ more, y₁ ++ last = x₁ ++ more ∧ y₂ ++ last = x₂ ++ more := by
  obtain ⟨more, rfl, rfl⟩ := h
  exact ⟨more ++ last, by simp⟩

/-! Each operation of a command, applied on both sides with the same operands, keeps the two executions alike. -/

theorem acceptOffer (h : Indistinguishable s₁ s₂ t₁ t₂) : Indistinguishable s₁ s₂ t₁.acceptOffer t₂.acceptOffer :=
  ⟨by simp [h.key], by simp [h.v], by simp [h.rc], by simp [h.ck], append_alike h.seen _, by simpa using h.made⟩

theorem memWriteOut (h : Indistinguishable s₁ s₂ t₁ t₂) (B : List Byte) :
    Indistinguishable s₁ s₂ (t₁.memWriteOut B) (t₂.memWriteOut B) :=
  ⟨h.key, h.v, h.rc, h.ck, append_alike h.seen _, h.made⟩

theorem memWriteRsp (h : Indistinguishable s₁ s₂ t₁ t₂) (w : RspWord) :
    Indistinguishable s₁ s₂ (t₁.memWriteRsp w) (t₂.memWriteRsp w) :=
  ⟨h.key, h.v, h.rc, h.ck, append_alike h.seen _, h.made⟩

theorem raiseError (h : Indistinguishable s₁ s₂ t₁ t₂) (x : ErrorKind) :
    Indistinguishable s₁ s₂ (t₁.raiseError x) (t₂.raiseError x) :=
  ⟨h.key, h.v, h.rc, h.ck, append_alike h.seen _, h.made⟩

theorem setRc (h : Indistinguishable s₁ s₂ t₁ t₂) (n : BitVec 32) :
    Indistinguishable s₁ s₂ (t₁.setRc n) (t₂.setRc n) :=
  ⟨h.key, h.v, rfl, h.ck, h.seen, h.made⟩

theorem commitKeyV (h : Indistinguishable s₁ s₂ t₁ t₂) (k x : Block) :
    Indistinguishable s₁ s₂ (t₁.commitKeyV k x) (t₂.commitKeyV k x) :=
  ⟨rfl, rfl, h.rc, rfl, h.seen, append_alike h.made _⟩

/-- The loop of increments and encryptions reads CK and V only. -/
theorem encryptPasses (h : Indistinguishable s₁ s₂ t₁ t₂) (cfg : Config) (n : Nat) (temp : List Byte) :
    (Machine.encryptPasses cfg n temp t₁).1 = (Machine.encryptPasses cfg n temp t₂).1 ∧
      Indistinguishable s₁ s₂ (Machine.encryptPasses cfg n temp t₁).2 (Machine.encryptPasses cfg n temp t₂).2 := by
  rw [encryptPasses_eq, encryptPasses_eq, h.ck, h.v]
  exact ⟨rfl, h.key, rfl, h.rc, rfl, h.seen, append_alike h.made _⟩

theorem updateSteps (h : Indistinguishable s₁ s₂ t₁ t₂) (cfg : Config) (seed : List Byte) :
    Indistinguishable s₁ s₂ (Machine.updateSteps cfg seed t₁) (Machine.updateSteps cfg seed t₂) := by
  obtain ⟨htemp, hpasses⟩ := h.encryptPasses cfg (cfg.seedlenBytes / cfg.outlenBytes) []
  rw [Machine.updateSteps, Machine.updateSteps, htemp]
  exact hpasses.commitKeyV _ _

/-! The effects of the three commands are made of these operations. -/

theorem instantiateEffect (h : Indistinguishable s₁ s₂ t₁ t₂) (cfg : Config) (seed : List Byte) :
    Indistinguishable s₁ s₂ (Machine.instantiateEffect cfg seed t₁) (Machine.instantiateEffect cfg seed t₂) :=
  ((h.commitKeyV 0 0).updateSteps cfg seed).setRc 1

theorem reseedEffect (h : Indistinguishable s₁ s₂ t₁ t₂) (cfg : Config) (seed : List Byte) :
    Indistinguishable s₁ s₂ (Machine.reseedEffect cfg seed t₁) (Machine.reseedEffect cfg seed t₂) :=
  (h.updateSteps cfg seed).setRc 1

theorem generateEffect (h : Indistinguishable s₁ s₂ t₁ t₂) (cfg : Config) (len : Nat) :
    Indistinguishable s₁ s₂ (Machine.generateEffect cfg len t₁) (Machine.generateEffect cfg len t₂) := by
  obtain ⟨hout, hpasses⟩ := h.encryptPasses cfg (outBlocks cfg len) []
  rw [Machine.generateEffect, Machine.generateEffect, hout, h.rc]
  exact ((hpasses.memWriteOut _).updateSteps cfg _).setRc _

/-- A command with one check and with effects that keep executions alike is answered alike from IDLE. -/
theorem runCommand (h : Indistinguishable s₁ s₂ s₁ s₂) (hp₁ : s₁.phase = .idle) (hp₂ : s₂.phase = .idle)
    (check : Option ErrorKind) {e₁ e₂ : State → State}
    (he : Indistinguishable s₁ s₂ (e₁ s₁.acceptOffer) (e₂ s₂.acceptOffer)) :
    ∃ t₁ t₂, Machine.runCommand s₁ check e₁ = .next t₁ ∧ Machine.runCommand s₂ check e₂ = .next t₂ ∧
      Indistinguishable s₁ s₂ t₁ t₂ := by
  cases check with
  | some x => exact ⟨_, _, runCommand_failed hp₁ x e₁, runCommand_failed hp₂ x e₂, h.acceptOffer.raiseError x⟩
  | none => exact ⟨_, _, runCommand_passed hp₁ e₁, runCommand_passed hp₂ e₂, he.memWriteRsp 0⟩

/-- Every command is answered alike from two idle states that agree on KEY, V, RC, CK and, unless it is GENERATE, on the
SEED word (R157). -/
theorem execCommand (h : Indistinguishable s₁ s₂ s₁ s₂) (hp₁ : s₁.phase = .idle) (hp₂ : s₂.phase = .idle) {i : Instr}
    (hi : phaseOf i = none) (hseed : (∃ L, i = .generate L) ∨ s₁.seedw = s₂.seedw) :
    ∃ t₁ t₂, exec i s₁ = .next t₁ ∧ exec i s₂ = .next t₂ ∧ Indistinguishable s₁ s₂ t₁ t₂ := by
  have hread : s₁.seedw = s₂.seedw → s₁.memReadSeed hw.seedlenBytes = s₂.memReadSeed hw.seedlenBytes := by
    intro h; rw [State.memReadSeed, State.memReadSeed, h]
  cases i with
  | instantiate eos len =>
    have hbytes := hread (by simpa using hseed)
    refine h.runCommand hp₁ hp₂ (instantiateCheck hw eos len) ?_
    rw [hbytes]
    exact h.acceptOffer.instantiateEffect hw _
  | reseed eos len =>
    have hbytes := hread (by simpa using hseed)
    have hcheck : reseedCheck hw eos len s₂ = reseedCheck hw eos len s₁ := by rw [reseedCheck, reseedCheck, h.rc]
    simp only [exec, execReseed, reseed, hcheck]
    refine h.runCommand hp₁ hp₂ _ ?_
    rw [hbytes]
    exact h.acceptOffer.reseedEffect hw _
  | generate len =>
    have hcheck : generateCheck hw s₂ = generateCheck hw s₁ := by rw [generateCheck, generateCheck, h.rc]
    simp only [exec, execGenerate, generate, hcheck]
    exact h.runCommand hp₁ hp₂ _ (h.acceptOffer.generateEffect hw len)
  | idle | instZero | genIncr | genEnc | updIncr | updEnc | updXor | updCommit | finish => cases hi

end Indistinguishable

/-- Settles O22: two executions of a command stay indistinguishable through each operation the command is made of. -/
theorem commandsDependOnArchitecturalStateOnly : Obligations.CommandsDependOnArchitecturalStateOnly := by
  intro i s₁ s₂ hi hp₁ hp₂ hkey hv hrc hck hseed
  obtain ⟨t₁, t₂, h₁, h₂, h⟩ := (Indistinguishable.start hkey hv hrc hck).execCommand hp₁ hp₂ hi hseed
  obtain ⟨seen, hseen₁, hseen₂⟩ := h.seen
  obtain ⟨made, hmade₁, hmade₂⟩ := h.made
  exact ⟨t₁, t₂, seen, made, h₁, h₂, h.key, h.v, h.rc, h.ck, hseen₁, hseen₂, hmade₁, hmade₂⟩

end Sys2Proof.Machine

/-! ## What a step can do, and the invariant it keeps (O36, O38, O39, O42) -/

namespace Sys2Proof.Machine

/-! ### The checks of a command (R205) -/

/-- A word that passes its checks is one of the three commands, and found RC where it asks (R203, R204). -/
theorem commandStatus_passed {w : CmdWord} {rc : BitVec 32} (h : commandStatus hw w rc = none) :
    (cmdOp w = 1 ∨ cmdOp w = 2 ∨ cmdOp w = 3) ∧ (cmdOp w = 2 ∨ cmdOp w = 3 → rc ≠ 0) ∧
      (cmdOp w = 3 → rc.toNat ≤ hw.reseedInterval) := by
  simp only [commandStatus] at h
  split_ifs at h with hillegal hinst hbudget
  refine ⟨?_, fun hop hrc => hinst ⟨hop, hrc⟩, fun hop => Nat.le_of_not_lt fun hrc => hbudget ⟨hop, hrc⟩⟩
  by_contra hop
  exact hillegal (.inl (by tauto))

/-- RC as an accepted command leaves it: counted up by GENERATE, 1 after a seed (R141, R146, R150, R185). -/
def rcAfter (op : BitVec 4) (rc : BitVec 32) : BitVec 32 := if op = 3 then rc + 1 else 1

/-- A command that found RC within the interval leaves it instantiated and within the budget (R24, R171). -/
theorem rcAfter_legal {op : BitVec 4} {rc : BitVec 32} (h : op = 3 → rc.toNat ≤ hw.reseedInterval) :
    rcAfter op rc ≠ 0 ∧ (rcAfter op rc).toNat ≤ hw.reseedInterval + 1 := by
  unfold rcAfter
  split_ifs with hop
  · have hle : rc.toNat ≤ 1000 := h hop
    have hsucc : (rc + 1).toNat = rc.toNat + 1 := BitVec.toNat_add_of_lt (by simp; omega)
    refine ⟨fun h0 => ?_, hsucc.trans_le (Nat.succ_le_succ hle)⟩
    rw [h0] at hsucc
    simp at hsucc
  · exact ⟨by decide, by decide⟩

/-! ### The effect of a command -/

theorem atRest_updateSteps (cfg : Config) (seed : List Byte) (s : State) :
    (updateSteps cfg seed s).atRest = updateSteps cfg seed s.atRest := by
  simp only [updateSteps, encryptPasses_eq]; rfl

/-- `effect` writes KEY and CK together and RC as a command with opcode `op` does, and neither reads nor writes PHASE and
the latches (R63, R66). -/
structure IsCommandEffect (op : BitVec 4) (effect : State → State) : Prop where
  ck (s : State) : (effect s).ck = (effect s).key
  rc (s : State) : (effect s).rc = rcAfter op s.rc
  atRest (s : State) : (effect s).atRest = effect s.atRest

theorem isCommandEffect_instantiate (seed : List Byte) : IsCommandEffect 1 (instantiateEffect hw seed) where
  ck _ := rfl
  rc _ := rfl
  atRest s := congrArg (·.setRc 1) (atRest_updateSteps hw seed (s.commitKeyV 0 0))

theorem isCommandEffect_reseed (seed : List Byte) : IsCommandEffect 2 (reseedEffect hw seed) where
  ck _ := rfl
  rc _ := rfl
  atRest s := congrArg (·.setRc 1) (atRest_updateSteps hw seed s)

theorem isCommandEffect_generate (len : Nat) : IsCommandEffect 3 (generateEffect hw len) where
  ck _ := rfl
  rc _ := rfl
  atRest s := by
    rw [generateEffect_eq, generateEffect_eq, ← atRest_makeOutput, ← atRest_updateSteps]; rfl

/-- A command runs in the frame of R140 with its status as its check. -/
theorem exec_eq_runCommand {w : CmdWord} {i : Instr} (h : decodeCmd w = .ok i) (s : State) :
    ∃ effect, IsCommandEffect (cmdOp w) effect ∧ exec i s = runCommand s (commandStatus hw w s.rc) effect := by
  obtain ⟨hrsv, ⟨hop, rfl⟩ | ⟨hop, rfl⟩ | ⟨hop, heos, rfl⟩⟩ := decodeCmd_cases h
  · rw [commandStatus_instantiate s.rc hop hrsv, hop]
    exact ⟨_, isCommandEffect_instantiate _, rfl⟩
  · rw [commandStatus_reseed s hop hrsv, hop]
    exact ⟨_, isCommandEffect_reseed _, rfl⟩
  · rw [commandStatus_generate s hop heos hrsv, hop]
    exact ⟨_, isCommandEffect_generate _, rfl⟩

/-- From IDLE, a command that passes its checks. -/
theorem exec_command_passed {w : CmdWord} {i : Instr} {s t : State} (hdec : decodeCmd w = .ok i)
    (hp : s.phase = .idle) (hst : commandStatus hw w s.rc = none) (h : exec i s = .next t) :
    ∃ effect, IsCommandEffect (cmdOp w) effect ∧ t = (effect s.acceptOffer).memWriteRsp 0 := by
  obtain ⟨effect, heffect, hexec⟩ := exec_eq_runCommand hdec s
  rw [hexec, hst, runCommand_passed hp] at h
  exact ⟨effect, heffect, (Host.Outcome.next.inj h).symm⟩

/-- From IDLE, a command that fails a check. -/
theorem exec_command_failed {w : CmdWord} {i : Instr} {s t : State} {x : ErrorKind} (hdec : decodeCmd w = .ok i)
    (hp : s.phase = .idle) (hst : commandStatus hw w s.rc = some x) (h : exec i s = .next t) :
    t = s.acceptOffer.raiseError x := by
  obtain ⟨effect, -, hexec⟩ := exec_eq_runCommand hdec s
  rw [hexec, hst, runCommand_failed hp] at h
  exact (Host.Outcome.next.inj h).symm

/-! ### What a step can do -/

/-- The next states a step from `s` can have, one constructor for each thing a step can do: a reset (R231), waiting,
refusing or latching a command in IDLE (R175, R176), a command as one step (R12), or a phase (R178 to R185). -/
inductive StepsTo (s : State) : State → Prop where
  | reset (hr : s.resetAsserted = true) : StepsTo s s.tick.takeReset
  | wait (hr : s.resetAsserted = false) (hp : s.phase = .idle) (hcmd : s.cmd = none) : StepsTo s s.tick.nextOffer
  | refuse {w : CmdWord} {x : ErrorKind} (hr : s.resetAsserted = false) (hp : s.phase = .idle) (hcmd : s.cmd = some w)
      (hst : commandStatus hw w s.rc = some x) : StepsTo s (s.tick.acceptOffer.raiseError x)
  | latch {w : CmdWord} (hr : s.resetAsserted = false) (hp : s.phase = .idle) (hcmd : s.cmd = some w)
      (hst : commandStatus hw w s.rc = none) : StepsTo s (s.tick.acceptOffer.latchCommand w s.seedw)
  | command {w : CmdWord} {i : Instr} {t : State} (hr : s.resetAsserted = false) (hp : s.phase = .idle)
      (hl : s.level = .command) (hcmd : s.cmd = some w) (hdec : decodeCmd w = .ok i)
      (hst : commandStatus hw w s.rc = none) (hexec : exec i s.tick = .next t) : StepsTo s t
  | instZero (hr : s.resetAsserted = false) (hp : s.phase = .instZero) :
      StepsTo s ((s.tick.commitKeyV 0 0).goto .updIncr)
  | genIncr (hr : s.resetAsserted = false) (hp : s.phase = .genIncr) : StepsTo s (s.tick.incrV.goto .genEnc)
  | genEnc (hr : s.resetAsserted = false) (hp : s.phase = .genEnc) :
      StepsTo s ((((s.tick.cipherEncrypt hw s.v).memWriteOut (blockOutput hw s.bitsrem (hw.E s.ck s.v))).setBitsrem
        (bitsAfterBlock hw s.bitsrem)).goto (if bitsAfterBlock hw s.bitsrem = 0 then .updIncr else .genIncr))
  | updIncr (hr : s.resetAsserted = false) (hp : s.phase = .updIncr) : StepsTo s (s.tick.incrV.goto .updEnc)
  | updEncFirst (hr : s.resetAsserted = false) (hp : s.phase = .updEnc) (ht : s.tlen = 0) :
      StepsTo s (((s.tick.cipherEncrypt hw s.v).setTemp (hw.E s.ck s.v ++ tempLow s.temp) 16).goto .updIncr)
  | updEncSecond (hr : s.resetAsserted = false) (hp : s.phase = .updEnc) (ht : s.tlen = 16) :
      StepsTo s (((s.tick.cipherEncrypt hw s.v).setTemp (tempHigh s.temp ++ hw.E s.ck s.v) 32).goto .updXor)
  | updXor (hr : s.resetAsserted = false) (hp : s.phase = .updXor) :
      StepsTo s ((s.tick.setTemp (s.temp ^^^ s.seedl) s.tlen).goto .updCommit)
  | updCommit (hr : s.resetAsserted = false) (hp : s.phase = .updCommit) :
      StepsTo s ((s.tick.commitKeyV (tempHigh s.temp) (tempLow s.temp)).scrubUpdate.goto .finish)
  | finish (hr : s.resetAsserted = false) (hp : s.phase = .finish) :
      StepsTo s (((s.tick.setRc (rcAfter s.opl s.rc)).memWriteRsp 0).scrubCommand.goto .idle)

section
variable {s t : State}

theorem updEnc_next {cfg : Config} (h : updEnc cfg s = .next t) : s.tlen = 0 ∨ s.tlen = 16 := by
  by_contra hne
  rw [updEnc, if_neg hne] at h
  cases h

theorem stepsTo_of_idle (hr : s.resetAsserted = false) (hp : s.phase = .idle) (h : exec .idle s.tick = .next t) :
    StepsTo s t := by
  have hbusy : ¬ s.tick.busy = true := by simp [hp]
  simp only [exec, execIdle, idle, if_neg hbusy, tick_cmd] at h
  cases hcmd : s.cmd with
  | none =>
    simp only [hcmd] at h
    cases h
    exact .wait hr hp hcmd
  | some w =>
    simp only [hcmd] at h
    cases h
    cases hst : commandStatus hw w s.rc with
    | none =>
      rw [acceptCommand_passed (s := s.tick) hst]
      exact .latch hr hp hcmd hst
    | some x =>
      rw [acceptCommand_failed (s := s.tick) hst]
      exact .refuse hr hp hcmd hst

theorem stepsTo_of_command (hr : s.resetAsserted = false) (hp : s.phase = .idle) (hl : s.level = .command)
    (hi : phaseOf (fetch s) = none) (h : exec (fetch s) s.tick = .next t) : StepsTo s t := by
  rw [fetch_of_offer hp hl] at hi h
  cases hcmd : s.cmd with
  | none => rw [hcmd] at hi; cases hi
  | some w =>
    rw [hcmd] at hi h
    cases hdec : decodeCmd w with
    | error e => rw [offeredInstr_error hdec] at hi; cases hi
    | ok i =>
      rw [offeredInstr_ok hdec] at h
      cases hst : commandStatus hw w s.rc with
      | none => exact .command hr hp hl hcmd hdec hst h
      | some x =>
        obtain rfl := exec_command_failed (s := s.tick) hdec hp hst h
        exact .refuse hr hp hcmd hst

theorem stepsTo_of_busy (hr : s.resetAsserted = false) (hp : s.phase ≠ .idle)
    (h : exec s.phase.instr s.tick = .next t) : StepsTo s t := by
  cases hphase : s.phase <;> rw [hphase] at h
  case idle => exact absurd hphase hp
  case updEnc =>
    obtain ht | ht := updEnc_next (s := s.tick) h
    · simp only [Phase.instr, exec, execUpdEnc, updEnc, ht] at h
      cases h
      exact .updEncFirst hr hphase ht
    · simp only [Phase.instr, exec, execUpdEnc, updEnc, ht] at h
      cases h
      exact .updEncSecond hr hphase ht
  all_goals cases h
  case instZero => exact .instZero hr hphase
  case genIncr => exact .genIncr hr hphase
  case genEnc => exact .genEnc hr hphase
  case updIncr => exact .updIncr hr hphase
  case updXor => exact .updXor hr hphase
  case updCommit => exact .updCommit hr hphase
  case finish => exact .finish hr hphase

/-- A step does one of the things `StepsTo` lists. -/
theorem stepsTo_of_step (h : step s = .next t) : StepsTo s t := by
  obtain ⟨hr, hs⟩ | ⟨hr, hp, hs⟩ | ⟨hr, hp, hs⟩ | ⟨hr, hp, hl, hi, hs⟩ := step_cases s <;> rw [hs] at h
  · cases h
    exact .reset hr
  · exact stepsTo_of_busy hr hp h
  · exact stepsTo_of_idle hr hp h
  · exact stepsTo_of_command hr hp hl hi h

end

/-! ### Each thing a step does keeps the invariant

The invariant is a conjunction of matches on PHASE. Where PHASE is known the clauses reduce to the facts of that phase,
which `Inv.at` gives, so each lemma below hands over the new phase's facts clause by clause. -/

section
variable {s : State}

theorem State.Inv.at {p : Phase} (h : s.Inv) (hp : s.phase = p) : (s.goto p).Inv := by
  subst hp; exact h

/-- The invariant is about the registers: it does not see the ports, the inputs, the observations and the model's own
fields. -/
theorem State.Inv.ports (h : s.Inv) (cmd : Option CmdWord) (seedw : SeedWord) (offers : List Offer)
    (resetIn : List Bool) (obs : List HostEvent) :
    ({ s with cmd := cmd, seedw := seedw, offers := offers, resetIn := resetIn, obs := obs } : State).Inv :=
  ⟨h.coherent, h.tlen, h.padded, h.scrubbed, h.bitsrem, h.opl, h.budget, h.zeroSeed, h.uninstantiated⟩

theorem State.Inv.tick (h : s.Inv) : s.tick.Inv := h.ports ..

theorem State.Inv.nextOffer (h : s.Inv) : s.nextOffer.Inv := by
  cases hoffers : s.offers with
  | nil => rw [nextOffer_nil s hoffers]; exact h.ports ..
  | cons o rest => rw [nextOffer_cons s o rest hoffers]; exact h.ports ..

theorem State.Inv.acceptOffer (h : s.Inv) : s.acceptOffer.Inv := h.nextOffer.ports ..

/-! #### IDLE -/

theorem State.Inv.raiseError (h : s.Inv) (hp : s.phase = .idle) (x : ErrorKind) : (s.raiseError x).Inv :=
  (h.at hp).ports ..

/-- At rest only KEY, V, RC and CK are left to say anything about. -/
theorem inv_of_atRest (hrest : s.atRest = s) (hck : s.rc ≠ 0 → s.ck = s.key)
    (hrc : s.rc.toNat ≤ hw.reseedInterval + 1) (hzero : s.rc = 0 → s.key = 0 ∧ s.v = 0) : s.Inv := by
  rw [← hrest]
  exact ⟨hck, rfl, ⟨fun _ => rfl, fun _ => tempLow_zero⟩, ⟨rfl, rfl, rfl, rfl⟩, rfl, rfl, ⟨hrc, nofun, nofun⟩,
    fun _ => rfl, fun _ => hzero⟩

/-- A sequencer at rest whose KEY, V and RC are zero, as after a reset (R34). -/
theorem inv_of_uninstantiated (hrest : s.atRest = s) (hrc : s.rc = 0) (hkey : s.key = 0) (hv : s.v = 0) : s.Inv :=
  inv_of_atRest hrest (absurd hrc) (by simp [hrc]) fun _ => ⟨hkey, hv⟩

theorem State.Inv.atRest (h : s.Inv) (hp : s.phase = .idle) : s.atRest = s := by
  have h := h.at hp
  obtain ⟨htemp, hseedl, hopl, hbits⟩ := h.scrubbed
  exact atRest_eq_self hp hopl hbits hseedl htemp h.tlen

theorem State.Inv.command {op : BitVec 4} {effect : State → State} (h : s.Inv) (hp : s.phase = .idle)
    (heffect : IsCommandEffect op effect) (hbudget : op = 3 → s.rc.toNat ≤ hw.reseedInterval) (w : RspWord) :
    ((effect s).memWriteRsp w).Inv := by
  obtain ⟨hne, hle⟩ := rcAfter_legal hbudget
  rw [← heffect.rc] at hne hle
  have hrest : (effect s).atRest = effect s := by rw [heffect.atRest, h.atRest hp]
  exact (inv_of_atRest hrest (fun _ => heffect.ck s) hle (absurd · hne)).ports ..

/-! #### The latches of an accepted command (R175) -/

theorem latchCommand_of_instantiate {w : CmdWord} (s : State) (seedw : SeedWord) (hop : cmdOp w = 1) :
    s.latchCommand w seedw =
      { s with opl := 1, temp := 0, tlen := 0, bitsrem := 0, seedl := seedw, phase := .instZero } := by
  simp [State.latchCommand, firstPhase, hop]

theorem latchCommand_of_reseed {w : CmdWord} (s : State) (seedw : SeedWord) (hop : cmdOp w = 2) :
    s.latchCommand w seedw =
      { s with opl := 2, temp := 0, tlen := 0, bitsrem := 0, seedl := seedw, phase := .updIncr } := by
  simp [State.latchCommand, firstPhase, hop]

theorem latchCommand_of_generate_zero {w : CmdWord} (s : State) (seedw : SeedWord) (hop : cmdOp w = 3)
    (hlen : cmdLen w = 0) :
    s.latchCommand w seedw =
      { s with opl := 3, temp := 0, tlen := 0, bitsrem := 0, seedl := 0, phase := .updIncr } := by
  simp [State.latchCommand, firstPhase, hop, hlen]

theorem latchCommand_of_generate_pos {w : CmdWord} (s : State) (seedw : SeedWord) (hop : cmdOp w = 3)
    (hlen : 0 < cmdLen w) :
    s.latchCommand w seedw =
      { s with opl := 3, temp := 0, tlen := 0, bitsrem := BitVec.ofNat 32 (cmdLen w), seedl := 0, phase := .genIncr } := by
  simp [State.latchCommand, firstPhase, hop, hlen]

/-- A LEN that is not zero is not zero as BITSREM: the field fits the register (R84). -/
theorem ofNat_cmdLen_ne_zero {w : CmdWord} (hlen : 0 < cmdLen w) : BitVec.ofNat 32 (cmdLen w) ≠ 0 := by
  intro h
  have := congrArg BitVec.toNat h
  rw [BitVec.toNat_ofNat, Nat.mod_eq_of_lt (cmdLen_lt w)] at this
  exact absurd this hlen.ne'

theorem State.Inv.latchCommand {w : CmdWord} (h : s.Inv) (hp : s.phase = .idle)
    (hst : commandStatus hw w s.rc = none) (seedw : SeedWord) : (s.latchCommand w seedw).Inv := by
  have h := h.at hp
  obtain ⟨hop, hinst, hbudget⟩ := commandStatus_passed hst
  have hpad : (0#6 = 0 → 0#256 = 0) ∧ (0#6 = 16 → tempLow 0#256 = 0) := ⟨fun _ => rfl, fun _ => tempLow_zero⟩
  obtain hop | hop | hop := hop
  · rw [latchCommand_of_instantiate s seedw hop]
    exact ⟨h.coherent, rfl, hpad, trivial, rfl, rfl, ⟨h.budget.1, nofun, nofun⟩, nofun, nofun⟩
  · have hrc : s.rc ≠ 0 := hinst (.inl hop)
    rw [latchCommand_of_reseed s seedw hop]
    exact ⟨h.coherent hrc, .inl rfl, hpad, trivial, rfl, .inr (.inl rfl), ⟨h.budget.1, fun _ => hrc, nofun⟩, nofun, nofun⟩
  · have hrc : s.rc ≠ 0 := hinst (.inr hop)
    have hbudget : s.rc.toNat ≤ hw.reseedInterval := hbudget hop
    rcases Nat.eq_zero_or_pos (cmdLen w) with hlen | hlen
    · rw [latchCommand_of_generate_zero s seedw hop hlen]
      exact ⟨h.coherent hrc, .inl rfl, hpad, trivial, rfl, .inr (.inr rfl), ⟨h.budget.1, nofun, fun _ => ⟨hrc, hbudget⟩⟩,
        fun _ => rfl, nofun⟩
    · rw [latchCommand_of_generate_pos s seedw hop hlen]
      exact ⟨h.coherent hrc, rfl, hpad, trivial, ofNat_cmdLen_ne_zero hlen, rfl,
        ⟨h.budget.1, nofun, fun _ => ⟨hrc, hbudget⟩⟩, fun _ => rfl, nofun⟩

/-! #### The busy phases -/

theorem State.Inv.instZero (h : s.Inv) (hp : s.phase = .instZero) : ((s.commitKeyV 0 0).goto .updIncr).Inv :=
  have h := h.at hp
  ⟨rfl, .inl h.tlen, h.padded, trivial, h.bitsrem, .inl h.opl, h.budget, h.zeroSeed, nofun⟩

theorem State.Inv.genIncr (h : s.Inv) (hp : s.phase = .genIncr) : (s.incrV.goto .genEnc).Inv :=
  have h := h.at hp
  ⟨h.coherent, h.tlen, h.padded, trivial, h.bitsrem, h.opl, h.budget, h.zeroSeed, nofun⟩

theorem State.Inv.genEnc (h : s.Inv) (hp : s.phase = .genEnc) (x : Block) (B : List Byte) (left : BitVec 32) :
    ((((s.cipherEncrypt hw x).memWriteOut B).setBitsrem left).goto (if left = 0 then .updIncr else .genIncr)).Inv := by
  have h := h.at hp
  split_ifs with hleft
  · exact ⟨h.coherent, .inl h.tlen, h.padded, trivial, hleft, .inr (.inr h.opl), h.budget, h.zeroSeed, nofun⟩
  · exact ⟨h.coherent, h.tlen, h.padded, trivial, hleft, h.opl, h.budget, h.zeroSeed, nofun⟩

theorem State.Inv.updIncr (h : s.Inv) (hp : s.phase = .updIncr) : (s.incrV.goto .updEnc).Inv :=
  have h := h.at hp
  ⟨h.coherent, h.tlen, h.padded, trivial, h.bitsrem, h.opl, h.budget, h.zeroSeed, nofun⟩

theorem State.Inv.updEncFirst (h : s.Inv) (hp : s.phase = .updEnc) (ht : s.tlen = 0) (x blk : Block) :
    (((s.cipherEncrypt hw x).setTemp (blk ++ tempLow s.temp) 16).goto .updIncr).Inv :=
  have h := h.at hp
  have hpad : tempLow (blk ++ tempLow s.temp) = 0 := by
    rw [tempLow_append, show s.temp = 0 from h.padded.1 ht]; exact tempLow_zero
  ⟨h.coherent, .inr rfl, ⟨nofun, fun _ => hpad⟩, trivial, h.bitsrem, h.opl, h.budget, h.zeroSeed, nofun⟩

theorem State.Inv.updEncSecond (h : s.Inv) (hp : s.phase = .updEnc) (x : Block) (temp : SeedWord) :
    (((s.cipherEncrypt hw x).setTemp temp 32).goto .updXor).Inv :=
  have h := h.at hp
  ⟨h.coherent, rfl, ⟨nofun, nofun⟩, trivial, h.bitsrem, h.opl, h.budget, h.zeroSeed, nofun⟩

theorem State.Inv.updXor (h : s.Inv) (hp : s.phase = .updXor) (temp : SeedWord) :
    ((s.setTemp temp s.tlen).goto .updCommit).Inv := by
  have h := h.at hp
  have ht : s.tlen = 32 := h.tlen
  rw [ht]
  exact ⟨h.coherent, rfl, ⟨nofun, nofun⟩, trivial, h.bitsrem, h.opl, h.budget, h.zeroSeed, nofun⟩

theorem State.Inv.updCommit (h : s.Inv) (hp : s.phase = .updCommit) (k x : Block) :
    ((s.commitKeyV k x).scrubUpdate.goto .finish).Inv :=
  have h := h.at hp
  ⟨rfl, rfl, ⟨fun _ => rfl, fun _ => tempLow_zero⟩, ⟨rfl, rfl⟩, h.bitsrem, h.opl, h.budget, fun _ => rfl, nofun⟩

theorem State.Inv.finish (h : s.Inv) (hp : s.phase = .finish) (w : RspWord) :
    (((s.setRc (rcAfter s.opl s.rc)).memWriteRsp w).scrubCommand.goto .idle).Inv := by
  have h := h.at hp
  obtain ⟨hne, hle⟩ := rcAfter_legal fun hopl => (h.budget.2.2 hopl).2
  obtain ⟨htemp, hseedl⟩ := h.scrubbed
  exact inv_of_atRest (atRest_eq_self rfl rfl rfl hseedl htemp h.tlen) (fun _ => h.coherent) hle (absurd · hne)

end

/-! ### The obligations -/

/-- Settles O36: each register of the reset state holds the value R34 gives it. -/
theorem resetValues : Obligations.ResetValues :=
  ⟨rfl, rfl, rfl, rfl, rfl, rfl, rfl, rfl, rfl, rfl⟩

/-- Settles O38: the sequencer is at rest after reset, with KEY, V and RC zero. -/
theorem resetMeetsTheInvariant : Obligations.ResetMeetsTheInvariant :=
  inv_of_uninstantiated rfl rfl rfl rfl

/-- Settles O39: each thing a step can do keeps the invariant. -/
theorem stepKeepsTheInvariant : Obligations.StepKeepsTheInvariant := by
  intro s t h hstep
  have ht := h.tick
  cases stepsTo_of_step hstep with
  | reset => exact inv_of_uninstantiated rfl rfl rfl rfl
  | wait => exact ht.nextOffer
  | refuse _ hp => exact ht.acceptOffer.raiseError (by simp [hp]) _
  | latch _ hp _ hst => exact ht.acceptOffer.latchCommand (by simp [hp]) (by simp [hst]) _
  | command _ hp _ _ hdec hst hexec =>
    obtain ⟨effect, heffect, rfl⟩ := exec_command_passed (s := s.tick) hdec hp hst hexec
    obtain ⟨-, -, hbudget⟩ := commandStatus_passed hst
    exact ht.acceptOffer.command (by simp [hp]) heffect (by simpa using hbudget) 0
  | instZero _ hp => exact ht.instZero hp
  | genIncr _ hp => exact ht.genIncr hp
  | genEnc _ hp => exact ht.genEnc hp _ _ _
  | updIncr _ hp => exact ht.updIncr hp
  | updEncFirst _ hp htlen => exact ht.updEncFirst hp htlen _ _
  | updEncSecond _ hp => exact ht.updEncSecond hp _ _
  | updXor _ hp => exact ht.updXor hp _
  | updCommit _ hp => exact ht.updCommit hp _ _
  | finish _ hp => exact ht.finish hp 0

/-- Settles O42: each thing a step can do writes the registers its phase or command may write. -/
theorem registersHaveTheirWritersOnly : Obligations.RegistersHaveTheirWritersOnly := by
  intro s t hr hstep asOneStep
  cases stepsTo_of_step hstep with
  | reset hreset => cases hr.symm.trans hreset
  | wait | refuse | latch => simp
  | command _ hp hl hcmd hdec hst hexec =>
    have hone : asOneStep := ⟨hp, hl, _, hcmd, hst⟩
    obtain ⟨effect, heffect, rfl⟩ := exec_command_passed (s := s.tick) hdec hp hst hexec
    exact ⟨fun _ => .inl hone, fun _ => .inl hone, fun _ => .inl hone, fun _ => heffect.ck _⟩
  | instZero _ hp | genIncr _ hp | genEnc _ hp | updIncr _ hp | updEncFirst _ hp | updEncSecond _ hp | updXor _ hp
  | updCommit _ hp | finish _ hp => simp [hp]

end Sys2Proof.Machine

/-! ## The output stream (O12, O18, O19, O43, O44) -/

namespace Sys2Proof.Machine

/-! ### Truncation, bit by bit (R60, R153) -/

theorem leftToRightBits_append (A B : List Byte) :
    leftToRightBits (A ++ B) = leftToRightBits A ++ leftToRightBits B := List.flatMap_append

@[simp] theorem length_leftToRightBits (B : List Byte) : (leftToRightBits B).length = 8 * B.length := by
  simp [leftToRightBits, List.length_flatMap, Nat.mul_comm]

@[simp] theorem length_maskLast (mask : Byte) (B : List Byte) : (maskLast mask B).length = B.length := by
  induction B using List.reverseRecOn with
  | nil => rfl
  | append_singleton B b => simp [maskLast_append, maskLast]

theorem length_leftmostBits {L : Nat} {B : List Byte} (h : L ≤ 8 * B.length) :
    (leftmostBits L B).length = (L + 7) / 8 := by
  rw [leftmostBits, length_maskLast, List.length_take, outBytes]
  omega

/-- One byte: the mask keeps its first `r` bits and clears the others (R60). -/
theorem leftToRightBits_mask (b : Byte) {r : Nat} (h0 : 0 < r) (h8 : r ≤ 8) :
    leftToRightBits [b &&& lastMask r] = (leftToRightBits [b]).take r ++ List.replicate (8 - r) false := by
  interval_cases r <;> simp [leftToRightBits, lastMask, List.replicate_succ]

/-- Whole bytes are kept, and the mask falls within the byte that holds the `L`-th bit (R60, R153). -/
theorem isLeftmostBits_leftmostBits {L : Nat} {B : List Byte} (h : L ≤ 8 * B.length) :
    IsLeftmostBits L B (leftmostBits L B) := by
  refine ⟨length_leftmostBits h, ?_⟩
  rcases Nat.eq_zero_or_pos L with rfl | hpos
  · rfl
  obtain ⟨k, r, hr0, hr8, rfl⟩ : ∃ k r, 0 < r ∧ r ≤ 8 ∧ L = 8 * k + r :=
    ⟨(L - 1) / 8, L - 8 * ((L - 1) / 8), by omega, by omega, by omega⟩
  obtain ⟨A, b, rest, rfl, rfl⟩ : ∃ A b rest, A.length = k ∧ B = A ++ b :: rest :=
    ⟨B.take k, B[k], B.drop (k + 1), by simp; omega, by rw [← List.drop_eq_getElem_cons, List.take_append_drop]⟩
  have hbyte : leftmostBits r (b :: rest) = [b &&& lastMask r] := by
    rw [leftmostBits, outBytes, show (r + 7) / 8 = 1 by omega, List.take_succ_cons, List.take_zero, maskLast]
  have htake : (leftToRightBits (b :: rest)).take r = (leftToRightBits [b]).take r := by
    rw [← List.singleton_append, leftToRightBits_append, List.take_append_of_le_length (by simpa using hr8)]
  rw [leftmostBits_append A hr0 (by simp), hbyte, leftToRightBits_append, leftToRightBits_append,
    ← length_leftToRightBits A, List.take_length_add_append, htake, leftToRightBits_mask b hr0 hr8, List.append_assoc,
    length_leftToRightBits, show 8 * ((8 * A.length + r + 7) / 8) - (8 * A.length + r) = 8 - r by omega]

/-- Settles O12: the truncated bytes are the leftmost bits. -/
theorem truncationKeepsLeftmostBits : Obligations.TruncationKeepsLeftmostBits :=
  fun _ _ h => isLeftmostBits_leftmostBits h

/-- GEN_ENC writes the leftmost `min(BITSREM, 128)` bits of its block (R180). -/
theorem isLeftmostBits_blockOutput (bits : BitVec 32) (blk : Block) :
    IsLeftmostBits (min bits.toNat 128) (blockBytes blk) (blockOutput hw bits blk) := by
  have hout : blockOutput hw bits blk = leftmostBits (min bits.toNat 128) (blockBytes blk) := by
    rcases Nat.le_total bits.toNat 128 with h | h
    · rw [blockOutput_of_le h, Nat.min_eq_left h]
    · have hall := leftmostBits_all (blockBytes blk)
      rw [length_blockBytes] at hall
      rw [blockOutput_of_ge h, Nat.min_eq_right h, hall]
  rw [hout]
  exact isLeftmostBits_leftmostBits (by simp)

/-! ### The acceptance of IDLE, case by case (R52, R175, R176) -/

theorem exec_idle_held {s : State} (hp : s.phase ≠ .idle) : exec .idle s = .next s := if_pos (by simpa using hp)

theorem exec_idle_wait {s : State} (hp : s.phase = .idle) (hcmd : s.cmd = none) : exec .idle s = .next s.nextOffer := by
  simp only [exec, execIdle, idle, hcmd]
  exact if_neg (by simp [hp])

theorem exec_idle_offered {s : State} {w : CmdWord} (hp : s.phase = .idle) (hcmd : s.cmd = some w) :
    exec .idle s = .next (acceptCommand hw w s) := by
  simp only [exec, execIdle, idle, hcmd]
  exact if_neg (by simp [hp])

/-! ### An offer to a busy sequencer (R52) -/

/-- Settles O19: the frame of a command and the acceptance of IDLE look at BUSY first, and no phase writes the ports. -/
theorem offerIsHeldWhileBusy : Obligations.OfferIsHeldWhileBusy := by
  intro s hbusy
  refine ⟨fun eos len => ⟨runCommand_held hbusy _ _, runCommand_held hbusy _ _, runCommand_held hbusy _ _⟩,
    exec_idle_held hbusy, fun t hstep => ?_⟩
  cases stepsTo_of_step hstep with
  | reset => exact ⟨rfl, rfl, rfl⟩
  | wait _ hp | refuse _ hp | latch _ hp | command _ hp => exact absurd hp hbusy
  | instZero | genIncr | genEnc | updIncr | updEncFirst | updEncSecond | updXor | updCommit | finish =>
    exact ⟨rfl, rfl, rfl⟩

/-! ### What an execution appends -/

/-- From `s` to `t` the host has observed `seen` and the cipher may have made transactions; what stood on the ports
before stands there still (R18, R55, R56). -/
structure State.Appends (s t : State) (seen : List HostEvent) : Prop where
  obs : t.obs = s.obs ++ seen
  ciph : ∃ made, t.ciph = s.ciph ++ made

section
variable {s t u : State} {seen more : List HostEvent}

theorem State.Appends.trans (h : s.Appends t seen) (h' : t.Appends u more) : s.Appends u (seen ++ more) := by
  obtain ⟨made, hmade⟩ := h.ciph
  obtain ⟨made', hmade'⟩ := h'.ciph
  exact ⟨by rw [h'.obs, h.obs, List.append_assoc], made ++ made', by rw [hmade', hmade, List.append_assoc]⟩

theorem appends_of_ciph_eq (hobs : t.obs = s.obs ++ seen) (hciph : t.ciph = s.ciph) : s.Appends t seen :=
  ⟨hobs, [], by rw [hciph, List.append_nil]⟩

theorem acceptOffer_appends (s : State) : s.Appends s.acceptOffer [.accepted] := appends_of_ciph_eq rfl (by simp)

theorem memWriteRsp_appends (s : State) (w : RspWord) : s.Appends (s.memWriteRsp w) [.rsp w] :=
  appends_of_ciph_eq rfl rfl

theorem raiseError_appends (s : State) (x : ErrorKind) : s.Appends (s.raiseError x) [.rsp (rspWord (some x))] :=
  appends_of_ciph_eq rfl rfl

theorem setRc_appends (s : State) (n : BitVec 32) : s.Appends (s.setRc n) [] := appends_of_ciph_eq (by simp) rfl

/-! #### The effect of a command -/

@[simp] theorem updateSteps_phase (cfg : Config) (seed : List Byte) (s : State) :
    (updateSteps cfg seed s).phase = s.phase := by
  simp only [updateSteps, encryptPasses_eq]; rfl

theorem updateSteps_appends (cfg : Config) (seed : List Byte) (s : State) : s.Appends (updateSteps cfg seed s) [] := by
  simp only [updateSteps, encryptPasses_eq]
  exact ⟨by simp, _, List.append_assoc ..⟩

@[simp] theorem makeOutput_phase (L : Nat) (s : State) : (s.makeOutput L).phase = s.phase := by rw [makeOutput_eq]; rfl

theorem makeOutput_appends (L : Nat) (s : State) :
    s.Appends (s.makeOutput L) ((leftmostBits L (blocksUpTo hw s.ck s.v (outBlocks hw L))).map .out) := by
  rw [makeOutput_eq]
  exact ⟨rfl, _, rfl⟩

@[simp] theorem instantiateEffect_phase (seed : List Byte) (s : State) :
    (instantiateEffect hw seed s).phase = s.phase := by
  rw [instantiateEffect, setRc_phase, updateSteps_phase, commitKeyV_phase]

theorem instantiateEffect_appends (seed : List Byte) (s : State) : s.Appends (instantiateEffect hw seed s) [] :=
  have hzero : s.Appends (s.commitKeyV 0 0) [] := ⟨by simp, _, rfl⟩
  (hzero.trans (updateSteps_appends hw seed _)).trans (setRc_appends _ 1)

@[simp] theorem reseedEffect_phase (seed : List Byte) (s : State) : (reseedEffect hw seed s).phase = s.phase := by
  rw [reseedEffect, setRc_phase, updateSteps_phase]

theorem reseedEffect_appends (seed : List Byte) (s : State) : s.Appends (reseedEffect hw seed s) [] :=
  (updateSteps_appends hw seed s).trans (setRc_appends _ 1)

@[simp] theorem generateEffect_phase (L : Nat) (s : State) : (generateEffect hw L s).phase = s.phase := by
  rw [generateEffect_eq, setRc_phase, updateSteps_phase, makeOutput_phase]

theorem generateEffect_appends (L : Nat) (s : State) :
    s.Appends (generateEffect hw L s) ((leftmostBits L (blocksUpTo hw s.ck s.v (outBlocks hw L))).map .out) := by
  rw [generateEffect_eq]
  have hupdate := (makeOutput_appends L s).trans (updateSteps_appends hw (zeroBytes hw.seedlenBytes) _)
  simpa only [List.append_nil] using hupdate.trans (setRc_appends _ (s.rc + 1))

/-- From IDLE a command ends in IDLE; the host sees its acceptance, the bytes its effect puts on OUT if it passes its
checks, and its status (R54, R55, R140, R208). -/
theorem runCommand_appends (hp : s.phase = .idle) (check : Option ErrorKind) {effect : State → State} {out : List Byte}
    (hphase : (effect s.acceptOffer).phase = s.acceptOffer.phase)
    (hout : s.acceptOffer.Appends (effect s.acceptOffer) (out.map .out)) :
    ∃ t, runCommand s check effect = .next t ∧ t.phase = .idle ∧
      s.Appends t (commandEvents (if check = none then out else []) check) := by
  have haccept := acceptOffer_appends s
  cases check with
  | none =>
    refine ⟨_, runCommand_passed hp effect, by simp [hphase, hp], ?_⟩
    exact (haccept.trans hout).trans (memWriteRsp_appends _ _)
  | some x =>
    exact ⟨_, runCommand_failed hp x effect, rfl, haccept.trans (raiseError_appends _ x)⟩

end

/-! ### What an instruction puts on OUT -/

/-- The check a command makes, given its operands (R140); a phase makes none. -/
def instrCheck (i : Instr) (s : State) : Option ErrorKind :=
  match i with
  | .instantiate eos len => instantiateCheck hw eos len
  | .reseed eos len => reseedCheck hw eos len s
  | .generate _ => generateCheck hw s
  | _ => none

/-- The bytes an instruction puts on OUT: GEN_ENC from its block, GENERATE as one step from its blocks when it passes
its checks, and no other any (R60, R72, R150, R180). -/
def instrOutput (i : Instr) (s : State) : List Byte :=
  match i with
  | .genEnc => blockOutput hw s.bitsrem (hw.E s.ck s.v)
  | .generate L => if generateCheck hw s = none then leftmostBits L (blocksUpTo hw s.ck s.v (outBlocks hw L)) else []
  | _ => []

/-- The status of a word is the check of the command it stands for (R205). -/
theorem commandStatus_of_decode {w : CmdWord} {i : Instr} (h : decodeCmd w = .ok i) (s : State) :
    commandStatus hw w s.rc = instrCheck i s := by
  obtain ⟨hrsv, ⟨hop, rfl⟩ | ⟨hop, rfl⟩ | ⟨hop, heos, rfl⟩⟩ := decodeCmd_cases h
  · exact commandStatus_instantiate s.rc hop hrsv
  · exact commandStatus_reseed s hop hrsv
  · exact commandStatus_generate s hop heos hrsv

/-- A word the decoder refuses is answered IllegalCommand, whatever RC (R88). -/
theorem commandStatus_of_illegal {w : CmdWord} {e : DecodeError} (h : decodeCmd w = .error e) (rc : BitVec 32) :
    commandStatus hw w rc = some .illegalCommand := by
  unfold decodeCmd at h
  split_ifs at h with hrsv h1 h2 h3 heos
  · exact if_pos (.inr (.inl hrsv))
  · exact if_pos (.inr (.inr ⟨h3, heos⟩))
  · exact if_pos (.inl ⟨h1, h2, h3⟩)

/-- Only GEN_ENC and GENERATE put bytes on OUT (R72). -/
theorem instrOutput_eq_nil {i : Instr} (henc : i ≠ .genEnc) (hgen : ∀ L, i ≠ .generate L) (s : State) :
    instrOutput i s = [] := by
  cases i with
  | genEnc => exact absurd rfl henc
  | generate L => exact absurd rfl (hgen L)
  | instantiate | reseed | idle | instZero | genIncr | updIncr | updEnc | updXor | updCommit | finish => rfl

/-- A host command executed from IDLE (R54, R55, R140). -/
theorem exec_command_appends {i : Instr} (hi : phaseOf i = none) {s : State} (hp : s.phase = .idle) :
    ∃ t, exec i s = .next t ∧ t.phase = .idle ∧ s.Appends t (commandEvents (instrOutput i s) (instrCheck i s)) := by
  cases i with
  | instantiate eos len =>
    have h := runCommand_appends (out := []) hp (instantiateCheck hw eos len)
      (instantiateEffect_phase (s.memReadSeed hw.seedlenBytes) _) (instantiateEffect_appends _ _)
    rwa [ite_self] at h
  | reseed eos len =>
    have h := runCommand_appends (out := []) hp (reseedCheck hw eos len s)
      (reseedEffect_phase (s.memReadSeed hw.seedlenBytes) _) (reseedEffect_appends _ _)
    rwa [ite_self] at h
  | generate len =>
    have h := runCommand_appends hp (generateCheck hw s) (generateEffect_phase len _) (generateEffect_appends len _)
    rwa [acceptOffer_ck, acceptOffer_v] at h
  | idle | instZero | genIncr | genEnc | updIncr | updEnc | updXor | updCommit | finish => cases hi

/-- The acceptance of IDLE puts nothing on OUT (R175, R176). -/
theorem exec_idle_appends {s t : State} (h : exec .idle s = .next t) :
    ∃ seen, s.Appends t seen ∧ seen.filterMap HostEvent.outByte = [] := by
  by_cases hp : s.phase = .idle
  · cases hcmd : s.cmd with
    | none =>
      obtain rfl := Host.Outcome.next.inj ((exec_idle_wait hp hcmd).symm.trans h)
      exact ⟨[], appends_of_ciph_eq (by simp) (by simp), rfl⟩
    | some w =>
      obtain rfl := Host.Outcome.next.inj ((exec_idle_offered hp hcmd).symm.trans h)
      cases hst : commandStatus hw w s.rc with
      | none =>
        rw [acceptCommand_passed hst]
        exact ⟨[.accepted], appends_of_ciph_eq (by simp) (by simp), rfl⟩
      | some x =>
        rw [acceptCommand_failed hst]
        exact ⟨_, (acceptOffer_appends s).trans (raiseError_appends _ x), rfl⟩
  · obtain rfl := Host.Outcome.next.inj ((exec_idle_held hp).symm.trans h)
    exact ⟨[], appends_of_ciph_eq (by simp) rfl, rfl⟩

/-- A phase puts its output on OUT (R175 to R185). -/
theorem exec_phase_appends {i : Instr} (hi : phaseOf i ≠ none) {s t : State} (h : exec i s = .next t) :
    ∃ seen, s.Appends t seen ∧ seen.filterMap HostEvent.outByte = instrOutput i s := by
  cases i with
  | instantiate | reseed | generate => exact absurd rfl hi
  | idle => exact exec_idle_appends h
  | genEnc =>
    cases h
    exact ⟨_, ⟨rfl, _, rfl⟩, filterMap_outByte_out _⟩
  | updEnc =>
    have hpre := updEnc_next (cfg := hw) h
    simp only [exec, execUpdEnc, updEnc, if_pos hpre] at h
    cases h
    exact ⟨[], ⟨by simp, _, rfl⟩, rfl⟩
  | instZero | updCommit =>
    cases h
    exact ⟨[], ⟨by simp, _, rfl⟩, rfl⟩
  | genIncr | updIncr | updXor =>
    cases h
    exact ⟨[], appends_of_ciph_eq (by simp) rfl, rfl⟩
  | finish =>
    cases h
    exact ⟨[.rsp (rspWord none)], appends_of_ciph_eq rfl rfl, rfl⟩

/-! ### What a step puts on OUT -/

/-- The bytes the next step puts on OUT: none when it takes a reset, otherwise those of the instruction it runs. -/
def stepOutput (s : State) : List Byte := if s.resetAsserted then [] else instrOutput (fetch s) s

theorem stepOutput_of_no_reset {s : State} (hr : s.resetAsserted = false) : stepOutput s = instrOutput (fetch s) s := by
  simp [stepOutput, hr]

theorem stepOutput_eq_nil {s : State} (h : s.resetAsserted = true ∨ fetch s ≠ .genEnc ∧ ∀ L, fetch s ≠ .generate L) :
    stepOutput s = [] := by
  unfold stepOutput
  split_ifs with hr
  · rfl
  · obtain ⟨henc, hgen⟩ := h.resolve_left hr
    exact instrOutput_eq_nil henc hgen s

/-- A host command is next only in IDLE (R52, R90). -/
theorem phase_of_fetch_command {s : State} (h : phaseOf (fetch s) = none) : s.phase = .idle := by
  by_contra hp
  rw [fetch_of_phase (.inl hp)] at h
  cases hphase : s.phase <;> simp [hphase, Phase.instr, phaseOf] at h

/-- Everything a step adds to what host and cipher have seen, and its bytes on OUT among it (R55, R67, R72). -/
theorem step_appends {s t : State} (h : step s = .next t) :
    ∃ seen, s.Appends t seen ∧ seen.filterMap HostEvent.outByte = stepOutput s := by
  cases hr : s.resetAsserted with
  | true =>
    rw [step_of_reset hr] at h
    cases h
    exact ⟨[], appends_of_ciph_eq (by simp) rfl, (stepOutput_eq_nil (.inl hr)).symm⟩
  | false =>
    rw [step_of_no_reset hr] at h
    have hout : instrOutput (fetch s) s.tick = stepOutput s := (stepOutput_of_no_reset hr).symm
    suffices ∃ seen, s.tick.Appends t seen ∧ seen.filterMap HostEvent.outByte = instrOutput (fetch s) s.tick by
      obtain ⟨seen, happ, hseen⟩ := this
      exact ⟨seen, ⟨happ.obs, happ.ciph⟩, hseen.trans hout⟩
    by_cases hi : phaseOf (fetch s) = none
    · obtain ⟨t', hexec, -, happ⟩ := exec_command_appends hi (s := s.tick) (phase_of_fetch_command hi)
      obtain rfl : t' = t := Host.Outcome.next.inj (hexec.symm.trans h)
      exact ⟨_, happ, filterMap_outByte_commandEvents _ _⟩
    · exact exec_phase_appends hi h

theorem step_outStream {s t : State} (h : step s = .next t) : t.outStream = s.outStream ++ stepOutput s := by
  obtain ⟨seen, happ, hseen⟩ := step_appends h
  rw [outStream_append happ.obs, hseen]

/-! ### The obligations about the stream -/

/-- Settles O43: a byte among the new observations is one of the step's output, which is empty unless GEN_ENC or
GENERATE runs. -/
theorem observationsOnlyGrow : Obligations.ObservationsOnlyGrow := by
  intro s t hstep
  obtain ⟨seen, happ, hseen⟩ := step_appends hstep
  obtain ⟨made, hmade⟩ := happ.ciph
  refine ⟨seen, made, happ.obs, hmade, fun ⟨b, hb⟩ => ?_⟩
  have hmem : b ∈ stepOutput s := hseen ▸ List.mem_filterMap.mpr ⟨_, hb, rfl⟩
  by_contra hne
  push Not at hne
  rw [stepOutput_eq_nil (.inr hne)] at hmem
  cases hmem

/-- Settles O44: the output of a step is the truncation of GEN_ENC's block or of GENERATE's blocks, and empty
otherwise. -/
theorem outBytesAreCipherBytes : Obligations.OutBytesAreCipherBytes := by
  intro s t hstep writes
  have hstream := step_outStream hstep
  refine ⟨fun hr hp => ?_, fun w L hr hp hl hcmd hdec => ?_, fun hnone => ?_⟩
  · have hfetch : fetch s = .genEnc := by rw [fetch_of_phase (.inl (by simp [hp])), hp]; rfl
    rw [stepOutput_of_no_reset hr, hfetch] at hstream
    exact ⟨_, hstream, isLeftmostBits_blockOutput _ _⟩
  · have hfetch : fetch s = .generate L := by rw [fetch_of_offer hp hl, hcmd, offeredInstr_ok hdec]
    have hcheck : commandStatus hw w s.rc = generateCheck hw s := commandStatus_of_decode hdec s
    rw [stepOutput_of_no_reset hr, hfetch, instrOutput, ← hcheck] at hstream
    refine ⟨fun hst => ?_, fun hst => ?_⟩
    · rw [if_pos hst, outBlocks_hw] at hstream
      exact ⟨_, hstream, isLeftmostBits_leftmostBits (by rw [length_blocksUpTo]; omega)⟩
    · rw [hstream, if_neg hst, List.append_nil]
  · rw [hstream, stepOutput_eq_nil hnone, List.append_nil]

/-- The number of bytes a command puts on OUT (R89). -/
theorem length_instrOutput_of_decode {w : CmdWord} {i : Instr} (h : decodeCmd w = .ok i) (s : State) :
    (instrOutput i s).length = if commandStatus hw w s.rc = none ∧ cmdOp w = 3 then (cmdLen w + 7) / 8 else 0 := by
  have hst := commandStatus_of_decode h s
  obtain ⟨-, ⟨hop, rfl⟩ | ⟨hop, rfl⟩ | ⟨hop, -, rfl⟩⟩ := decodeCmd_cases h
  · simp [instrOutput, hop]
  · simp [instrOutput, hop]
  · simp only [hst, instrOutput, instrCheck, hop, and_true]
    split_ifs with hpass
    · exact length_leftmostBits (by rw [length_blocksUpTo, outBlocks_hw]; omega)
    · rfl

/-- Settles O18: a word that decodes runs its command, and one that does not is refused by IDLE as illegal. -/
theorem commandAnswersOnceWithItsStatus : Obligations.CommandAnswersOnceWithItsStatus := by
  intro s w hp hl hcmd hr
  rw [step_of_no_reset hr, fetch_of_offer hp hl, hcmd]
  cases hdec : decodeCmd w with
  | ok i =>
    obtain ⟨t, hexec, hphase, happ⟩ := exec_command_appends (phaseOf_decodeCmd hdec) (s := s.tick) hp
    have hst : commandStatus hw w s.rc = instrCheck i s.tick := commandStatus_of_decode hdec s.tick
    refine ⟨t, instrOutput i s.tick, by rw [offeredInstr_ok hdec, hexec], hphase, ?_,
      length_instrOutput_of_decode hdec s.tick⟩
    rw [hst]
    exact happ.obs
  | error e =>
    have hst := commandStatus_of_illegal hdec s.rc
    have hexec : exec .idle s.tick = .next (s.tick.acceptOffer.raiseError .illegalCommand) := by
      rw [exec_idle_offered (s := s.tick) hp hcmd, acceptCommand_failed (s := s.tick) hst]
    refine ⟨_, [], by rw [offeredInstr_error hdec, hexec], rfl, ?_, by simp [hst]⟩
    rw [hst]
    exact ((acceptOffer_appends s.tick).trans (raiseError_appends _ _)).obs

end Sys2Proof.Machine

/-! ## Encoding and decoding (O1, O2, O3, O5, O6) -/

namespace Sys2Proof.Machine

/-! ### The decoder, command by command (R82, R85, R88) -/

section
variable {w : CmdWord}

theorem decodeCmd_eq_instantiate_iff :
    decodeCmd w = .ok (.instantiate (cmdEos w) (cmdLen w)) ↔ cmdOp w = 1 ∧ cmdRsv w = 0 := by
  constructor
  · intro h
    obtain ⟨hrsv, ⟨hop, -⟩ | ⟨-, hi⟩ | ⟨-, -, hi⟩⟩ := decodeCmd_cases h
    · exact ⟨hop, hrsv⟩
    all_goals cases hi
  · rintro ⟨hop, hrsv⟩
    simp [decodeCmd, hop, hrsv]

theorem decodeCmd_eq_reseed_iff :
    decodeCmd w = .ok (.reseed (cmdEos w) (cmdLen w)) ↔ cmdOp w = 2 ∧ cmdRsv w = 0 := by
  constructor
  · intro h
    obtain ⟨hrsv, ⟨-, hi⟩ | ⟨hop, -⟩ | ⟨-, -, hi⟩⟩ := decodeCmd_cases h
    · cases hi
    · exact ⟨hop, hrsv⟩
    · cases hi
  · rintro ⟨hop, hrsv⟩
    simp [decodeCmd, hop, hrsv]

theorem decodeCmd_eq_generate_iff :
    decodeCmd w = .ok (.generate (cmdLen w)) ↔ cmdOp w = 3 ∧ cmdEos w = false ∧ cmdRsv w = 0 := by
  constructor
  · intro h
    obtain ⟨hrsv, ⟨-, hi⟩ | ⟨-, hi⟩ | ⟨hop, heos, -⟩⟩ := decodeCmd_cases h
    · cases hi
    · cases hi
    · exact ⟨hop, heos, hrsv⟩
  · rintro ⟨hop, heos, hrsv⟩
    simp [decodeCmd, hop, heos, hrsv]

/-- What makes a word illegal: no opcode of R82, a bit of RSV, or EOS in GENERATE (R85, R88). -/
theorem decodeCmd_eq_error_iff : (∃ e, decodeCmd w = .error e) ↔
    (cmdOp w ≠ 1 ∧ cmdOp w ≠ 2 ∧ cmdOp w ≠ 3) ∨ cmdRsv w ≠ 0 ∨ (cmdOp w = 3 ∧ cmdEos w = true) := by
  unfold decodeCmd
  split_ifs with hrsv h1 h2 h3 heos
  · exact iff_of_true ⟨_, rfl⟩ (.inr (.inl hrsv))
  · simp [h1, not_not.mp hrsv]
  · simp [h2, not_not.mp hrsv]
  · exact iff_of_true ⟨_, rfl⟩ (.inr (.inr ⟨h3, heos⟩))
  · simp [h3, heos, not_not.mp hrsv]
  · exact iff_of_true ⟨_, rfl⟩ (.inl ⟨h1, h2, h3⟩)

/-- A word is answered IllegalCommand exactly when the decoder refuses it, whatever RC (R88, R206). -/
theorem commandStatus_eq_illegal_iff {rc : BitVec 32} :
    commandStatus hw w rc = some .illegalCommand ↔ ∃ e, decodeCmd w = .error e := by
  refine ⟨fun h => ?_, fun ⟨e, he⟩ => commandStatus_of_illegal he rc⟩
  rw [decodeCmd_eq_error_iff]
  simp only [commandStatus] at h
  split_ifs at h with hillegal
  · exact hillegal
  all_goals cases h

end

/-! ### Round trips (R80, R90, R91) -/

theorem decodeCmd_cmdWord_instantiate (eos : Bool) {len : Nat} (h : len < 2 ^ 32) :
    decodeCmd (cmdWord 1 eos len) = .ok (.instantiate eos len) := by
  have hdec := decodeCmd_eq_instantiate_iff.mpr ⟨cmdOp_cmdWord 1 eos h, cmdRsv_cmdWord 1 eos h⟩
  rwa [cmdEos_cmdWord _ _ h, cmdLen_cmdWord _ _ h] at hdec

theorem decodeCmd_cmdWord_reseed (eos : Bool) {len : Nat} (h : len < 2 ^ 32) :
    decodeCmd (cmdWord 2 eos len) = .ok (.reseed eos len) := by
  have hdec := decodeCmd_eq_reseed_iff.mpr ⟨cmdOp_cmdWord 2 eos h, cmdRsv_cmdWord 2 eos h⟩
  rwa [cmdEos_cmdWord _ _ h, cmdLen_cmdWord _ _ h] at hdec

theorem decodeCmd_cmdWord_generate {len : Nat} (h : len < 2 ^ 32) :
    decodeCmd (cmdWord 3 false len) = .ok (.generate len) := by
  have hdec := decodeCmd_eq_generate_iff.mpr
    ⟨cmdOp_cmdWord 3 false h, cmdEos_cmdWord 3 false h, cmdRsv_cmdWord 3 false h⟩
  rwa [cmdLen_cmdWord _ _ h] at hdec

/-- Settles O1: a command is read back from the fields of its word, a phase from its value of PHASE. -/
theorem decodeOfEncodeIsIdentity : Obligations.DecodeOfEncodeIsIdentity := by
  intro i hwf
  cases i with
  | instantiate eos len => exact decodeCmd_cmdWord_instantiate eos (of_decide_eq_true hwf)
  | reseed eos len => exact decodeCmd_cmdWord_reseed eos (of_decide_eq_true hwf)
  | generate len => exact decodeCmd_cmdWord_generate (of_decide_eq_true hwf)
  | idle | instZero | genIncr | genEnc | updIncr | updEnc | updXor | updCommit | finish => rfl

theorem encode_of_decodeCmd {w : CmdWord} {i : Instr} (h : decodeCmd w = .ok i) :
    encode i = .cmd w ∧ i.wf = true := by
  have hlen : lenFits (cmdLen w) = true := decide_eq_true (cmdLen_lt w)
  obtain ⟨hrsv, hcase⟩ := decodeCmd_cases h
  have hword := cmdWord_of_fields hrsv
  obtain ⟨hop, rfl⟩ | ⟨hop, rfl⟩ | ⟨hop, heos, rfl⟩ := hcase
  · exact ⟨by rw [encode, ← hop, hword], hlen⟩
  · exact ⟨by rw [encode, ← hop, hword], hlen⟩
  · exact ⟨by rw [encode, ← hop, ← heos, hword], hlen⟩

theorem encode_of_decodePhase {p : BitVec 4} {i : Instr} (h : decodePhase p = .ok i) :
    encode i = .phase p ∧ i.wf = true := by
  unfold decodePhase at h
  split at h <;> cases h <;> exact ⟨congrArg Code.phase (BitVec.eq_of_toNat_eq (Eq.symm ‹_›)), rfl⟩

/-- Settles O2: in either code space the code that decodes is rebuilt from what it decodes to. -/
theorem encodeOfDecodeIsIdentity : Obligations.EncodeOfDecodeIsIdentity := by
  intro c i h
  cases c with
  | cmd w => exact encode_of_decodeCmd h
  | phase p => exact encode_of_decodePhase h

/-! ### The opcode map and the table of phases (R90, R93) -/

theorem selects_instantiateRow_iff_decodeCmd (w : CmdWord) :
    instantiateRow.selects w = true ↔ decodeCmd w = .ok (.instantiate (cmdEos w) (cmdLen w)) :=
  (selects_instantiateRow w).trans decodeCmd_eq_instantiate_iff.symm

theorem selects_reseedRow_iff_decodeCmd (w : CmdWord) :
    reseedRow.selects w = true ↔ decodeCmd w = .ok (.reseed (cmdEos w) (cmdLen w)) :=
  (selects_reseedRow w).trans decodeCmd_eq_reseed_iff.symm

theorem selects_generateRow_iff_decodeCmd (w : CmdWord) :
    generateRow.selects w = true ↔ decodeCmd w = .ok (.generate (cmdLen w)) :=
  (selects_generateRow w).trans decodeCmd_eq_generate_iff.symm

/-- No row of the opcode map selects exactly the words the decoder refuses (R88, R93). -/
theorem selects_none_iff (w : CmdWord) :
    (instantiateRow.selects w = false ∧ reseedRow.selects w = false ∧ generateRow.selects w = false) ↔
      ∃ e, decodeCmd w = .error e := by
  simp only [← Bool.not_eq_true, selects_instantiateRow_iff_decodeCmd, selects_reseedRow_iff_decodeCmd,
    selects_generateRow_iff_decodeCmd]
  cases hdec : decodeCmd w with
  | error e => simp
  | ok i => obtain ⟨-, ⟨-, rfl⟩ | ⟨-, rfl⟩ | ⟨-, -, rfl⟩⟩ := decodeCmd_cases hdec <;> simp

/-- Settles O3: a row selects the words that decode to its command, and no word decodes to two. -/
theorem opcodeMapSelectsCommands : Obligations.OpcodeMapSelectsCommands := by
  intro w
  have hinst := selects_instantiateRow_iff_decodeCmd w
  have hres := selects_reseedRow_iff_decodeCmd w
  have hgen := selects_generateRow_iff_decodeCmd w
  refine ⟨hinst, hres, hgen, fun ⟨h, h'⟩ => ?_, fun ⟨h, h'⟩ => ?_, fun ⟨h, h'⟩ => ?_, ?_⟩
  · cases (hinst.mp h).symm.trans (hres.mp h')
  · cases (hinst.mp h).symm.trans (hgen.mp h')
  · cases (hres.mp h).symm.trans (hgen.mp h')
  · simp only [selects_none_iff, commandStatus_eq_illegal_iff, forall_const]

/-- Settles O5: the sixteen values of PHASE one by one; a busy sequencer fetches by PHASE, and a phase decodes from its
own code. -/
theorem phaseValueSelectsMicroOperation : Obligations.PhaseValueSelectsMicroOperation := by
  refine ⟨by decide, fun s hbusy => ⟨fetch_of_phase (.inl hbusy), ?_⟩⟩
  cases s.phase with
  | idle => exact ⟨0, rfl⟩
  | instZero => exact ⟨1, rfl⟩
  | genIncr => exact ⟨2, rfl⟩
  | genEnc => exact ⟨3, rfl⟩
  | updIncr => exact ⟨4, rfl⟩
  | updEnc => exact ⟨5, rfl⟩
  | updXor => exact ⟨6, rfl⟩
  | updCommit => exact ⟨7, rfl⟩
  | finish => exact ⟨8, rfl⟩

/-- Settles O6: ten fixed codes, evaluated. -/
theorem sampleWordsDecode : Obligations.SampleWordsDecode := by
  unfold Obligations.SampleWordsDecode
  decide

end Sys2Proof.Machine

/-! ## An illegal command word (O4) -/

namespace Sys2Proof.Machine

theorem tick_nextOffer (s : State) : s.tick.nextOffer = { s.nextOffer with resetIn := s.resetIn.tail } := by
  cases h : s.offers with
  | nil => rw [nextOffer_nil s h, nextOffer_nil s.tick h]; rfl
  | cons o rest => rw [nextOffer_cons s o rest h, nextOffer_cons s.tick o rest h]; rfl

/-- At either level the acceptance of IDLE answers an illegal word (R88). -/
theorem fetch_of_illegal {s : State} {w : CmdWord} {e : DecodeError} (hp : s.phase = .idle) (hcmd : s.cmd = some w)
    (hdec : decodeCmd w = .error e) : fetch s = .idle := by
  cases hl : s.level with
  | command => rw [fetch_of_offer hp hl, hcmd, offeredInstr_error hdec]
  | fsm => rw [fetch_of_phase (.inr hl), hp]; rfl

/-- The word is taken from the port and refused; nothing else happens (R88, R208). -/
theorem step_of_illegal {s : State} {w : CmdWord} {e : DecodeError} (hr : s.resetAsserted = false)
    (hp : s.phase = .idle) (hcmd : s.cmd = some w) (hdec : decodeCmd w = .error e) :
    step s = .next (s.tick.acceptOffer.raiseError .illegalCommand) := by
  rw [step_of_no_reset hr, fetch_of_illegal hp hcmd hdec, exec_idle_offered (s := s.tick) hp hcmd,
    acceptCommand_failed (s := s.tick) (commandStatus_of_illegal hdec s.rc)]

/-- The opcodes that are no command's (R82). -/
theorem no_command_opcode_iff (op : BitVec 4) : op ≠ 1 ∧ op ≠ 2 ∧ op ≠ 3 ↔ op = 0 ∨ 4 ≤ op.toNat := by
  revert op; decide

/-- Settles O4: the condition on the bits is the decoder's, and IDLE refuses the word with its code 6. -/
theorem illegalWordIsRefusedWithoutEffect : Obligations.IllegalWordIsRefusedWithoutEffect := by
  intro w illegal
  have hillegal : illegal ↔ ∃ e, decodeCmd w = .error e := by
    rw [decodeCmd_eq_error_iff, no_command_opcode_iff, or_assoc]
    rfl
  refine ⟨hillegal, fun s hw hp hcmd hr => ?_⟩
  obtain ⟨e, hdec⟩ := hillegal.mp hw
  rw [step_of_illegal hr hp hcmd hdec]
  refine congrArg Host.Outcome.next ?_
  rw [State.acceptOffer, tick_nextOffer]
  apply State.ext_fields <;> simp [hp]
  rfl

end Sys2Proof.Machine

/-! ## The assembler (O7) -/

namespace Sys2Proof.Machine

/-- A line of a command assembles exactly when its LEN fits (R92). -/
theorem assemble_eq {line : AsmLine} {w : CmdWord} {len : Nat} (hcode : encode line.expand.instr = .cmd w)
    (hwf : line.expand.instr.wf = lenFits len) :
    assemble line = if len < 2 ^ 32 then some ⟨w, seedwOf line.expand.seed⟩ else none := by
  unfold assemble
  rw [hcode, hwf, lenFits]
  split_ifs with h
  · rw [decide_eq_true h]
  · rw [decide_eq_false h]

/-- The bytes on the SEED port are the seed, cut or padded with zeros to 32 bytes (R53, R91). -/
theorem seedBytes_seedwOf (seed : List Byte) :
    seedBytes (seedwOf seed) = seed.take 32 ++ zeroBytes (32 - seed.length) := by
  have hlen : (seed.take 32 ++ zeroBytes (32 - seed.length)).length = 32 := by
    rw [List.length_append, List.length_take, length_zeroBytes]
    omega
  have hlt := beInt_lt (seed.take 32 ++ zeroBytes (32 - seed.length))
  rw [hlen] at hlt
  refine eq_of_beInt_eq (by rw [hlen, length_seedBytes]) ?_
  rw [beInt_seedBytes, seedwOf, BitVec.toNat_ofNat, Nat.mod_eq_of_lt (by simpa using hlt)]

theorem getElem?_seedBytes_seedwOf (seed : List Byte) {i : Nat} (hi : i < 32) :
    (seedBytes (seedwOf seed))[i]? = some (seed.getD i 0) := by
  rw [seedBytes_seedwOf]
  rcases Nat.lt_or_ge i seed.length with h | h
  · rw [List.getElem?_append_left (by simp; omega), List.getElem?_take_of_lt hi]
    simp [h]
  · rw [List.getElem?_append_right (by simp; omega), zeroBytes, List.getElem?_replicate_of_lt (by simp; omega),
      List.getD_eq_default _ _ h]

theorem seedBytes_seedwOf_of_length {seed : List Byte} (h : seed.length = 32) : seedBytes (seedwOf seed) = seed := by
  rw [seedBytes_seedwOf, h, List.take_of_length_le h.le]
  exact List.append_nil seed

/-- The word of GENERATE as a number (R91). -/
theorem cmdWord_generate {n : Nat} (h : n < 2 ^ 32) : cmdWord 3 false n = BitVec.ofNat 64 (n * 2 ^ 32 + 3) := by
  apply BitVec.eq_of_toNat_eq
  rw [toNat_cmdWord 3 false h, BitVec.toNat_ofNat]
  simp
  omega

theorem assemble_generate (n : Nat) :
    assemble (.generate n) = if n < 2 ^ 32 then some ⟨cmdWord 3 false n, seedwOf []⟩ else none :=
  assemble_eq rfl rfl

/-- Settles O7: a line's word is the encoding of its instruction, and the SEED word carries its seed. -/
theorem assemblerCarriesOperands : Obligations.AssemblerCarriesOperands := by
  refine ⟨fun seed eos => ⟨assemble_eq rfl rfl, assemble_eq rfl rfl, fun h => ?_, fun i hi => ?_, fun h => ?_⟩,
    fun n => ⟨fun h => ?_, fun h => ?_⟩, fun k => ⟨rfl, rfl⟩⟩
  · exact ⟨decodeCmd_cmdWord_instantiate eos h, decodeCmd_cmdWord_reseed eos h⟩
  · exact getElem?_seedBytes_seedwOf seed hi
  · exact seedBytes_seedwOf_of_length h
  · exact ⟨_, (assemble_generate n).trans (if_pos h), cmdWord_generate h, decodeCmd_cmdWord_generate h⟩
  · exact (assemble_generate n).trans (if_neg h.not_gt)

end Sys2Proof.Machine

/-! ## The RSP words of a step (O45) -/

namespace Sys2Proof.Machine

/-- RangeError is the status of no command (R106, R212). -/
theorem commandStatus_ne_rangeError (w : CmdWord) (rc : BitVec 32) : commandStatus hw w rc ≠ some .rangeError := by
  simp only [commandStatus]
  split_ifs <;> simp

/-- The RSP word of an outcome other than RangeError: zero upper bits, and one of the six delivered codes (R86, R87). -/
theorem rspWord_delivered {outcome : Option ErrorKind} (h : outcome ≠ some .rangeError) :
    (rspWord outcome).extractLsb' 4 28 = 0#28 ∧ (rspWord outcome).toNat ∈ [0, 1, 2, 3, 5, 6] := by
  revert h
  rcases outcome with _ | x
  · decide
  · cases x <;> decide

/-- `seen` delivers no RSP word, or one, which is not RangeError's. -/
def DeliversAtMostOne (seen : List HostEvent) : Prop :=
  seen.filterMap HostEvent.rspWord = [] ∨
    ∃ outcome, outcome ≠ some .rangeError ∧ seen.filterMap HostEvent.rspWord = [rspWord outcome]

/-- What the host sees in one step: only a command as one step, a refusal and FINISH deliver an RSP word
(R54, R175 to R185, R231). -/
theorem stepsTo_deliversAtMostOne {s t : State} (h : StepsTo s t) :
    ∃ seen, t.obs = s.obs ++ seen ∧ DeliversAtMostOne seen := by
  cases h with
  | reset | wait | instZero | genIncr | updIncr | updEncFirst | updEncSecond | updXor | updCommit =>
    exact ⟨[], by simp, .inl rfl⟩
  | latch => exact ⟨[.accepted], by simp, .inl rfl⟩
  | genEnc => exact ⟨_, rfl, .inl (filterMap_rspWord_out _)⟩
  | finish => exact ⟨[.rsp (rspWord none)], rfl, .inr ⟨none, by simp, rfl⟩⟩
  | @refuse w x hr hp hcmd hst =>
    exact ⟨_, ((acceptOffer_appends s.tick).trans (raiseError_appends _ x)).obs,
      .inr ⟨some x, hst ▸ commandStatus_ne_rangeError w s.rc, rfl⟩⟩
  | @command w i _ hr hp hl hcmd hdec hst hexec =>
    obtain ⟨t', hexec', -, happ⟩ := exec_command_appends (phaseOf_decodeCmd hdec) (s := s.tick) hp
    obtain rfl : t' = t := Host.Outcome.next.inj (hexec'.symm.trans hexec)
    have hcheck : instrCheck i s.tick = none := (commandStatus_of_decode hdec s.tick).symm.trans hst
    rw [hcheck] at happ
    exact ⟨_, happ.obs, .inr ⟨none, by simp, filterMap_rspWord_commandEvents _ _⟩⟩

/-- Settles O45: the word a step delivers, if any, is that of a command's status. -/
theorem rangeErrorIsNeverDelivered : Obligations.RangeErrorIsNeverDelivered := by
  intro s t hstep
  obtain ⟨seen, hobs, hnone | ⟨outcome, hne, hone⟩⟩ := stepsTo_deliversAtMostOne (stepsTo_of_step hstep)
  · exact ⟨[], by rw [rspWords_append hobs, hnone], by simp, by simp⟩
  · refine ⟨[rspWord outcome], by rw [rspWords_append hobs, hone], by simp, fun w hw => ?_⟩
    rw [List.mem_singleton.mp hw]
    exact rspWord_delivered hne

end Sys2Proof.Machine

/-! ## The FixedWidthCounter (O8 to O11)

`counterIncr_append_singleton` says how the carry treats the last byte; the arithmetic of `incr` (R102) and its carry
through a run of 0xFF bytes (R101, R103) both follow from it by induction from the right. -/

namespace Sys2Proof.Machine

/-- The number of values of `n` bytes, in the spelling of the statements and in that of `beInt_lt`. -/
theorem two_pow_eight_mul (n : Nat) : 2 ^ (8 * n) = 256 ^ n := pow_mul 2 8 n

theorem byte_add_one_ne_zero_iff {b : Byte} : b + 1 ≠ 0 ↔ b ≠ 0xFF := by
  revert b; decide

@[simp] theorem counterIncr_nil : counterIncr [] = [] := rfl

/-- The carry stops at a last byte other than 0xFF, and goes on to the left of a last byte 0xFF (R101). -/
theorem counterIncr_append_singleton (B : List Byte) (b : Byte) :
    counterIncr (B ++ [b]) = if b ≠ 0xFF then B ++ [b + 1] else counterIncr B ++ [0] := by
  simp only [counterIncr, List.reverse_append, List.reverse_singleton, List.singleton_append, carryFromLast,
    byte_add_one_ne_zero_iff]
  split_ifs with hb
  · rw [List.reverse_cons, List.reverse_reverse]
  · rw [List.reverse_cons, not_not.mp hb, show (0xFF : Byte) + 1 = 0 from rfl]

@[simp] theorem length_counterIncr (B : List Byte) : (counterIncr B).length = B.length := by
  induction B using List.reverseRecOn with
  | nil => rfl
  | append_singleton B b ih =>
    rw [counterIncr_append_singleton]
    split_ifs
    · simp
    · simp [ih]

/-- `incr` as arithmetic (R102). Above a last byte 0xFF it is 256 times the carry into the other bytes. -/
theorem beInt_counterIncr (B : List Byte) : beInt (counterIncr B) = (beInt B + 1) % 256 ^ B.length := by
  induction B using List.reverseRecOn with
  | nil => rfl
  | append_singleton B b ih =>
    rw [counterIncr_append_singleton]
    split_ifs with hb
    · have hvalue : beInt (B ++ [b + 1]) = beInt (B ++ [b]) + 1 := by
        have hbyte : (b + 1).toNat = b.toNat + 1 := by bv_omega
        rw [beInt_snoc, beInt_snoc, hbyte, add_assoc]
      have hfits : beInt (B ++ [b]) + 1 < 256 ^ (B ++ [b]).length := by
        simpa [← hvalue] using beInt_lt (B ++ [b + 1])
      rw [hvalue, Nat.mod_eq_of_lt hfits]
    · calc beInt (counterIncr B ++ [0])
          = 256 * ((beInt B + 1) % 256 ^ B.length) := by rw [beInt_snoc, ih]; rfl
        _ = 256 * (beInt B + 1) % 256 ^ (B.length + 1) := by rw [pow_succ', Nat.mul_mod_mul_left]
        _ = (beInt (B ++ [b]) + 1) % 256 ^ (B ++ [b]).length := by
          rw [beInt_snoc, List.length_append, not_not.mp hb]; rfl

theorem length_iterate_counterIncr (k : Nat) (B : List Byte) : (counterIncr^[k] B).length = B.length := by
  induction k with
  | zero => rfl
  | succ k ih => rw [Function.iterate_succ_apply', length_counterIncr, ih]

theorem beInt_iterate_counterIncr (k : Nat) (B : List Byte) :
    beInt (counterIncr^[k] B) = (beInt B + k) % 256 ^ B.length := by
  induction k with
  | zero => exact (Nat.mod_eq_of_lt (beInt_lt B)).symm
  | succ k ih =>
    rw [Function.iterate_succ_apply', beInt_counterIncr, length_iterate_counterIncr, ih, Nat.mod_add_mod, add_assoc]

theorem iterate_counterIncr (k : Nat) (B : List Byte) :
    counterIncr^[k] B = beBytes ((beInt B + k) % 256 ^ B.length) B.length := by
  rw [← beInt_iterate_counterIncr, ← length_iterate_counterIncr k B, beBytes_beInt]

/-- The register V counts as the 16-byte counter does (R102). -/
theorem blockBytes_add_one (v : Block) : blockBytes (v + 1) = counterIncr (blockBytes v) := by
  apply eq_of_beInt_eq (by simp)
  rw [beInt_counterIncr, beInt_blockBytes, beInt_blockBytes, length_blockBytes, BitVec.toNat_add]
  rfl

/-- Settles O8: `incr` is addition of 1 on the integer, and so is `k` times `incr` by induction on `k`. -/
theorem incrementAddsOneModuloWidth : Obligations.IncrementAddsOneModuloWidth := by
  refine ⟨fun B => ?_, fun s => ⟨blockBytes_add_one s.v, rfl⟩⟩
  rw [two_pow_eight_mul]
  exact ⟨beInt_counterIncr B, length_counterIncr B, fun k => iterate_counterIncr k B⟩

/-- A run of trailing 0xFF bytes becomes zero, and what stands before it is incremented (R101). -/
theorem counterIncr_append_replicate (B : List Byte) (k : Nat) :
    counterIncr (B ++ List.replicate k 0xFF) = counterIncr B ++ List.replicate k 0 := by
  induction k with
  | zero => rw [List.replicate_zero, List.replicate_zero, List.append_nil, List.append_nil]
  | succ k ih =>
    rw [List.replicate_succ', ← List.append_assoc, counterIncr_append_singleton, if_neg (not_not.mpr rfl), ih,
      List.replicate_succ', List.append_assoc]

/-- Settles O9: the carry through the run of 0xFF bytes, after a byte that stops it, and after none. -/
theorem incrementCarriesAndWraps : Obligations.IncrementCarriesAndWraps := by
  refine ⟨fun A b k hb => ?_, fun n => counterIncr_append_replicate [] n, fun n => ?_⟩
  · rw [counterIncr_append_replicate, counterIncr_append_singleton, if_pos hb]
  · rw [List.replicate_succ', counterIncr_append_singleton, if_pos (by decide)]
    rfl

theorem fromInteger_of_lt {v n : Nat} (h : v < 2 ^ (8 * n)) : fromInteger v n = .ok (beBytes v n) := if_neg h.not_ge

theorem fromInteger_eq_rangeError_iff {v n : Nat} : fromInteger v n = .error .rangeError ↔ 2 ^ (8 * n) ≤ v := by
  refine ⟨fun h => ?_, fun h => if_pos h⟩
  by_contra hlt
  rw [fromInteger_of_lt (not_le.mp hlt)] at h
  cases h

theorem beInt_beBytes_of_lt {v n : Nat} (h : v < 2 ^ (8 * n)) : beInt (beBytes v n) = v := by
  rw [beInt_beBytes, ← two_pow_eight_mul, Nat.mod_eq_of_lt h]

/-- Settles O10: the guard of `from_integer` is the stated condition, and a value that fits survives its bytes. -/
theorem fromIntegerRaisesRangeErrorExactly : Obligations.FromIntegerRaisesRangeErrorExactly :=
  fun _ _ _ => ⟨fromInteger_eq_rangeError_iff,
    fun h => ⟨_, fromInteger_of_lt h, length_beBytes _ _, beInt_beBytes_of_lt h⟩⟩

/-- The bytes of a counter's own integer are the counter: `from_integer` does not raise on them (R104, R107). -/
theorem fromInteger_asInteger (B : List Byte) : fromInteger (asInteger B) B.length = .ok B := by
  have hfits : beInt B < 2 ^ (8 * B.length) := two_pow_eight_mul B.length ▸ beInt_lt B
  rw [asInteger, fromInteger_of_lt hfits, beBytes_beInt]

/-- Settles O11: the integer of a counter always fits its width, and a value that fits survives its bytes. -/
theorem counterViewsRoundTrip : Obligations.CounterViewsRoundTrip :=
  ⟨fromInteger_asInteger, fun _ _ h => ⟨_, fromInteger_of_lt h, beInt_beBytes_of_lt h, rfl⟩⟩

end Sys2Proof.Machine

/-! ## The update function (O13) -/

namespace Sys2Proof.Machine

section
variable {cfg : Config} {S : List Byte}

/-- The contract of the update fails on any length but 32 bytes (R120). -/
theorem update_of_length_ne (h : cfg.Wf) (hS : S.length ≠ 32) (s : State) :
    update cfg S s = .error .invalidInputLength := by
  obtain ⟨-, -, hsize⟩ := config_sizes h
  exact if_pos (hsize ▸ hS)

/-- Under its contract the update is its six steps (R120). -/
theorem update_of_length_eq (h : cfg.Wf) (hS : S.length = 32) (s : State) :
    update cfg S s = .ok (updateSteps cfg S s) := by
  obtain ⟨-, -, hsize⟩ := config_sizes h
  exact if_neg (not_not.mpr (hS.trans hsize.symm))

end

/-- Settles O13: under the contract the update is its six steps, whose closed form encrypts under CK, here KEY. -/
theorem updateReplacesKeyAndVector : Obligations.UpdateReplacesKeyAndVector := by
  intro cfg S s hwf
  refine ⟨fun hS => update_of_length_ne hwf hS s, fun hS hck => ?_⟩
  rw [update_of_length_eq hwf hS, updateSteps_eq hwf hS, hck, encryptionsUpTo_two]
  refine congrArg Except.ok ?_
  apply State.ext_fields <;> simp

end Sys2Proof.Machine

/-! ## The commands in closed form (O14 to O17) -/

namespace Sys2Proof.Machine

/-! ### The two ends of a command -/

/-- After a command that passed its checks: KEY and CK are `k`, V is `x`, RC is `n`; the host saw the acceptance, the
bytes `out` and STATUS 0, and the cipher made the transactions `made` (R52, R54, R66, R140). -/
def State.answered (s : State) (k x : Block) (n : BitVec 32) (out : List Byte) (made : List CiphEvent) : State :=
  { s.nextOffer with
    key := k, v := x, ck := k, rc := n
    obs := s.obs ++ commandEvents out none
    ciph := s.ciph ++ made }

/-- After a command that failed with `x`: the offer is taken and answered, and nothing else changes (R140, R208). -/
def State.refusedWith (s : State) (x : ErrorKind) : State :=
  { s.nextOffer with obs := s.obs ++ commandEvents [] (some x) }

@[simp] theorem rspWord_none : rspWord none = 0 := rfl

section
variable (s : State)

section
variable (k x : Block) (n : BitVec 32) (out : List Byte) (made : List CiphEvent)

@[simp] theorem answered_key : (s.answered k x n out made).key = k := rfl
@[simp] theorem answered_v : (s.answered k x n out made).v = x := rfl
@[simp] theorem answered_ck : (s.answered k x n out made).ck = k := rfl
@[simp] theorem answered_rc : (s.answered k x n out made).rc = n := rfl
@[simp] theorem answered_phase : (s.answered k x n out made).phase = s.phase := nextOffer_phase s
@[simp] theorem answered_ciph : (s.answered k x n out made).ciph = s.ciph ++ made := rfl

@[simp] theorem answered_rspWords : (s.answered k x n out made).rspWords = s.rspWords ++ [0] := by
  rw [rspWords_append rfl, filterMap_rspWord_commandEvents, rspWord_none]

@[simp] theorem answered_outStream : (s.answered k x n out made).outStream = s.outStream ++ out := by
  rw [outStream_append rfl, filterMap_outByte_commandEvents]

end

variable (x : ErrorKind)

@[simp] theorem refusedWith_key : (s.refusedWith x).key = s.key := nextOffer_key s
@[simp] theorem refusedWith_v : (s.refusedWith x).v = s.v := nextOffer_v s
@[simp] theorem refusedWith_ck : (s.refusedWith x).ck = s.ck := nextOffer_ck s
@[simp] theorem refusedWith_rc : (s.refusedWith x).rc = s.rc := nextOffer_rc s
@[simp] theorem refusedWith_ciph : (s.refusedWith x).ciph = s.ciph := nextOffer_ciph s

@[simp] theorem refusedWith_rspWords : (s.refusedWith x).rspWords = s.rspWords ++ [rspWord (some x)] := by
  rw [rspWords_append rfl, filterMap_rspWord_commandEvents]

@[simp] theorem refusedWith_outStream : (s.refusedWith x).outStream = s.outStream := by
  rw [outStream_append rfl, filterMap_outByte_commandEvents, List.append_nil]

/-- `raise` after an acceptance in IDLE (R208). -/
theorem raiseError_acceptOffer {s : State} (hp : s.phase = .idle) (x : ErrorKind) :
    s.acceptOffer.raiseError x = s.refusedWith x := by
  apply State.ext_fields <;> simp [State.refusedWith, commandEvents, hp]

end

/-! ### The checks of the commands (R201 to R204) -/

section
variable {s : State} {eos : Bool} {len : Nat}

theorem seedError_whole (eos : Bool) : seedError hw eos 32 = none := by simp [seedError]

theorem seedError_ended (h : len < 32) : seedError hw true len = some .endOfStream := by simp [seedError, h]

theorem seedError_short (h : len < 32) : seedError hw false len = some .invalidInputLength := by
  simp [seedError, h.ne]

theorem seedError_long (h : 32 < len) : seedError hw eos len = some .invalidInputLength := by
  simp [seedError, h.ne', h.le]

theorem reseedCheck_uninstantiated (h : s.rc = 0) : reseedCheck hw eos len s = some .notInstantiated := if_pos h

theorem reseedCheck_instantiated (h : s.rc ≠ 0) : reseedCheck hw eos len s = seedError hw eos len := if_neg h

theorem generateCheck_uninstantiated (h : s.rc = 0) : generateCheck hw s = some .notInstantiated := if_pos h

theorem generateCheck_ready (h0 : s.rc ≠ 0) (h : s.rc.toNat ≤ 1000) : generateCheck hw s = none :=
  (if_neg h0).trans (if_neg h.not_gt)

theorem rc_ne_zero (h : 0 < s.rc.toNat) : s.rc ≠ 0 := fun h0 => by simp [h0] at h

theorem generateCheck_exhausted (h : 1000 < s.rc.toNat) : generateCheck hw s = some .reseedRequired :=
  (if_neg (rc_ne_zero (by omega))).trans (if_pos h)

/-! ### The lifecycle states (R25, R170) -/

theorem lifecycle_eq (s : State) : s.lifecycle hw =
    if s.rc = 0 then .uninstantiated else if 1000 < s.rc.toNat then .exhausted else .ready := by
  simp [State.lifecycle, State.instantiated, State.exhausted, show hw.reseedInterval = 1000 from rfl]

theorem lifecycle_eq_uninstantiated_iff : s.lifecycle hw = .uninstantiated ↔ s.rc = 0 := by
  rw [lifecycle_eq]
  split_ifs <;> simp_all

theorem lifecycle_eq_exhausted_iff : s.lifecycle hw = .exhausted ↔ 1000 < s.rc.toNat := by
  rw [lifecycle_eq]
  split_ifs <;> simp_all

theorem lifecycle_eq_ready_iff : s.lifecycle hw = .ready ↔ s.rc ≠ 0 ∧ s.rc.toNat ≤ 1000 := by
  rw [lifecycle_eq]
  split_ifs <;> simp_all

/-! ### What each command does -/

theorem exec_instantiate (eos : Bool) (len : Nat) (s : State) : exec (.instantiate eos len) s =
    runCommand s (instantiateCheck hw eos len) (instantiateEffect hw (seedBytes s.seedw)) := by
  rw [← memReadSeed_seedlen]; rfl

theorem exec_reseed (eos : Bool) (len : Nat) (s : State) : exec (.reseed eos len) s =
    runCommand s (reseedCheck hw eos len s) (reseedEffect hw (seedBytes s.seedw)) := by
  rw [← memReadSeed_seedlen]; rfl

theorem exec_generate (L : Nat) (s : State) :
    exec (.generate L) s = runCommand s (generateCheck hw s) (generateEffect hw L) := rfl

/-! A command that fails its check (R140, R208). -/

theorem exec_instantiate_refused {x : ErrorKind} (hp : s.phase = .idle) (hcheck : instantiateCheck hw eos len = some x) :
    exec (.instantiate eos len) s = .next (s.refusedWith x) := by
  rw [exec_instantiate, hcheck, runCommand_failed hp, raiseError_acceptOffer hp]

theorem exec_reseed_refused {x : ErrorKind} (hp : s.phase = .idle) (hcheck : reseedCheck hw eos len s = some x) :
    exec (.reseed eos len) s = .next (s.refusedWith x) := by
  rw [exec_reseed, hcheck, runCommand_failed hp, raiseError_acceptOffer hp]

theorem exec_generate_refused {x : ErrorKind} (hp : s.phase = .idle) (hcheck : generateCheck hw s = some x) (L : Nat) :
    exec (.generate L) s = .next (s.refusedWith x) := by
  rw [exec_generate, hcheck, runCommand_failed hp, raiseError_acceptOffer hp]

/-! A command that passes its checks: the blocks are those of the cipher under CK. -/

/-- INSTANTIATE: the update from the zero KEY and V with the presented seed (R141, R142). -/
theorem exec_instantiate_passed (hp : s.phase = .idle) (hcheck : instantiateCheck hw eos len = none) :
    exec (.instantiate eos len) s = .next (s.answered (hw.E 0 1 ^^^ tempHigh s.seedw) (hw.E 0 2 ^^^ tempLow s.seedw) 1 []
      (.rekey 0 :: encryptionsUpTo hw 0 0 2 ++ [.rekey (hw.E 0 1 ^^^ tempHigh s.seedw)])) := by
  rw [exec_instantiate, hcheck, runCommand_passed hp, instantiateEffect, updateSteps_seedBytes]
  refine congrArg Host.Outcome.next ?_
  apply State.ext_fields <;> simp [State.answered, commandEvents]

/-- RESEED: the update with the presented seed (R146, R147). -/
theorem exec_reseed_passed (hp : s.phase = .idle) (hcheck : reseedCheck hw eos len s = none) :
    exec (.reseed eos len) s = .next (s.answered
      (hw.E s.ck (s.v + 1) ^^^ tempHigh s.seedw) (hw.E s.ck (s.v + 2) ^^^ tempLow s.seedw) 1 []
      (encryptionsUpTo hw s.ck s.v 2 ++ [.rekey (hw.E s.ck (s.v + 1) ^^^ tempHigh s.seedw)])) := by
  rw [exec_reseed, hcheck, runCommand_passed hp, reseedEffect, updateSteps_seedBytes]
  refine congrArg Host.Outcome.next ?_
  apply State.ext_fields <;> simp [State.answered, commandEvents]

/-- GENERATE: the output blocks, then the update on zeroes with the two blocks after them (R150, R154, R155). -/
theorem exec_generate_passed (hp : s.phase = .idle) (hcheck : generateCheck hw s = none) (L : Nat) :
    exec (.generate L) s = .next (s.answered
      (blockAt hw s.ck s.v (outBlocks hw L + 1)) (blockAt hw s.ck s.v (outBlocks hw L + 2)) (s.rc + 1)
      (leftmostBits L (blocksUpTo hw s.ck s.v (outBlocks hw L)))
      (encryptionsUpTo hw s.ck s.v (outBlocks hw L + 2) ++ [.rekey (blockAt hw s.ck s.v (outBlocks hw L + 1))])) := by
  rw [exec_generate, hcheck, runCommand_passed hp, generateEffect_eq, hw_seedlenBytes, ← seedBytes_zero,
    updateSteps_seedBytes, makeOutput_eq, encryptionsUpTo_add]
  generalize outBlocks hw L = m
  refine congrArg Host.Outcome.next ?_
  apply State.ext_fields <;> simp [State.answered, commandEvents, blockAt, BitVec.ofNat_add, BitVec.add_assoc]

end

/-! ### The closed forms and the failures (O14 to O17) -/

/-- Settles O14: LEN 32 passes the one check of INSTANTIATE, in every lifecycle state. -/
theorem instantiateSucceeds : Obligations.InstantiateSucceeds := by
  intro eos s hp
  rw [exec_instantiate_passed hp (seedError_whole eos), encryptionsUpTo_two]
  rfl

/-- Settles O15: LEN 32 passes the checks of RESEED once instantiated, and the update encrypts under CK, here KEY. -/
theorem reseedSucceeds : Obligations.ReseedSucceeds := by
  intro eos s hp hrc hck
  rw [exec_reseed_passed hp ((reseedCheck_instantiated hrc).trans (seedError_whole eos)), encryptionsUpTo_two, hck]
  rfl

/-- Settles O16: Ready passes the checks of GENERATE, and its blocks are made under CK, here KEY. -/
theorem generateSucceeds : Obligations.GenerateSucceeds := by
  intro L s hp hrc hle hck m
  rw [exec_generate_passed hp (generateCheck_ready hrc hle), outBlocks_hw, hck]
  simp only [State.answered, commandEvents, List.append_assoc, rspWord_none, m]

/-- Settles O17: each clause names the check that fails first. -/
theorem failedCommandHasNoEffect : Obligations.FailedCommandHasNoEffect := by
  intro s hp refused
  have instantiateFails {eos len x} (h : seedError hw eos len = some x) := exec_instantiate_refused hp h
  have reseedFails {eos len x} (hrc : s.rc ≠ 0) (h : seedError hw eos len = some x) :=
    exec_reseed_refused hp ((reseedCheck_instantiated hrc).trans h)
  exact ⟨fun _ h => instantiateFails (seedError_ended h), fun _ h => instantiateFails (seedError_short h),
    fun _ _ h => instantiateFails (seedError_long h),
    fun hrc _ _ => exec_reseed_refused hp (reseedCheck_uninstantiated hrc),
    fun hrc _ h => reseedFails hrc (seedError_ended h), fun hrc _ h => reseedFails hrc (seedError_short h),
    fun hrc _ _ h => reseedFails hrc (seedError_long h),
    fun hrc => exec_generate_refused hp (generateCheck_uninstantiated hrc),
    fun hrc => exec_generate_refused hp (generateCheck_exhausted hrc)⟩

end Sys2Proof.Machine

/-! ## Commands and the reseed budget (O20, O21, O23, O24) -/

namespace Sys2Proof.Machine

/-- In Ready a GENERATE counts RC up without wrapping (R24). -/
theorem toNat_rc_add_one {rc : BitVec 32} (h : rc.toNat ≤ 1000) : (rc + 1).toNat = rc.toNat + 1 :=
  BitVec.toNat_add_of_lt (by simp; omega)

/-- GENERATE leaves Ready exactly at the end of the interval (R171). -/
theorem lifecycle_of_rc_add_one {s t : State} (h : s.rc.toNat ≤ 1000) (ht : t.rc = s.rc + 1) :
    t.lifecycle hw = if s.rc = 1000 then .exhausted else .ready := by
  have hsucc : t.rc.toNat = s.rc.toNat + 1 := ht ▸ toNat_rc_add_one h
  split_ifs with hlast
  · exact lifecycle_eq_exhausted_iff.mpr (by simp [hsucc, hlast])
  · have hne : s.rc.toNat ≠ 1000 := fun h => hlast (BitVec.eq_of_toNat_eq h)
    exact lifecycle_eq_ready_iff.mpr ⟨rc_ne_zero (by omega), by omega⟩

/-- Settles O20: the lifecycle state says which check of RESEED and GENERATE fails, if one does. -/
theorem lifecycleTable : Obligations.LifecycleTable := by
  intro s eos L hp answers
  have refused {i : Instr} {x : ErrorKind} (h : exec i s = .next (s.refusedWith x)) :
      answers i (rspWord (some x)) s.rc true :=
    ⟨_, h, by simp, by simp, by simp⟩
  have reseeded (hrc : s.rc ≠ 0) : answers (.reseed eos 32) 0 1 false :=
    ⟨_, exec_reseed_passed hp ((reseedCheck_instantiated hrc).trans (seedError_whole eos)), by simp, rfl, nofun⟩
  refine ⟨⟨_, exec_instantiate_passed hp (seedError_whole eos), by simp, rfl, nofun⟩, fun h => ?_, fun h => ?_,
    fun h => ?_, fun t ht => lifecycle_eq_ready_iff.mpr (by simp [ht])⟩
  · have hrc := lifecycle_eq_uninstantiated_iff.mp h
    exact ⟨refused (exec_reseed_refused hp (reseedCheck_uninstantiated hrc)),
      refused (exec_generate_refused hp (generateCheck_uninstantiated hrc) L)⟩
  · obtain ⟨hrc, hle⟩ := lifecycle_eq_ready_iff.mp h
    have hexec := exec_generate_passed hp (generateCheck_ready hrc hle) L
    refine ⟨reseeded hrc, ⟨_, hexec, by simp, rfl, nofun⟩, fun t ht => lifecycle_of_rc_add_one hle ?_⟩
    rw [← Host.Outcome.next.inj (hexec.symm.trans ht), answered_rc]
  · have hrc := lifecycle_eq_exhausted_iff.mp h
    exact ⟨reseeded (rc_ne_zero (by omega)), refused (exec_generate_refused hp (generateCheck_exhausted hrc) L)⟩

/-- Settles O21: the closed form of INSTANTIATE reads the SEED word alone, and that of GENERATE reads KEY, V and RC. -/
theorem instantiateForgetsPriorState : Obligations.InstantiateForgetsPriorState := by
  intro s₁ s₂ t₁ t₂ e₁ e₂ L hp₁ hp₂ hseed h₁ h₂
  obtain rfl := Host.Outcome.next.inj ((exec_instantiate_passed hp₁ (seedError_whole e₁)).symm.trans h₁)
  obtain rfl := Host.Outcome.next.inj ((exec_instantiate_passed hp₂ (seedError_whole e₂)).symm.trans h₂)
  rw [hseed]
  exact ⟨rfl, rfl, rfl, rfl, _, _, _,
    exec_generate_passed (by simpa using hp₁) (generateCheck_ready (by simp) (by simp)) L,
    exec_generate_passed (by simpa using hp₂) (generateCheck_ready (by simp) (by simp)) L,
    answered_outStream .., answered_outStream ..⟩

/-- Whole blocks are not truncated (R153). -/
theorem leftmostBits_wholeBlocks (k v : Block) (n : Nat) :
    leftmostBits (128 * n) (blocksUpTo hw k v n) = blocksUpTo hw k v n := by
  have hall := leftmostBits_all (blocksUpTo hw k v n)
  rwa [length_blocksUpTo, ← Nat.mul_assoc] at hall

/-- In Ready, GENERATE of whole blocks puts these blocks on OUT (R152, R153). -/
theorem exec_generate_wholeBlocks {s : State} (hp : s.phase = .idle) (hready : s.lifecycle hw = .ready) (n : Nat) :
    ∃ t, exec (.generate (128 * n)) s = .next t ∧ t.outStream = s.outStream ++ blocksUpTo hw s.ck s.v n ∧
      t.rc = s.rc + 1 := by
  obtain ⟨hrc, hle⟩ := lifecycle_eq_ready_iff.mp hready
  refine ⟨_, exec_generate_passed hp (generateCheck_ready hrc hle) _, ?_, rfl⟩
  rw [answered_outStream, outBlocks_hw, show (128 * n + 127) / 128 = n by omega, leftmostBits_wholeBlocks]

/-- Settles O23: the blocks of `128 * N` bits begin with the block of 128 bits. -/
theorem firstBlockIgnoresGranularity : Obligations.FirstBlockIgnoresGranularity := by
  intro s N hp hready hN
  obtain ⟨n, rfl⟩ := Nat.exists_eq_add_of_le hN
  obtain ⟨t, hexec_t, hout_t, hrc_t⟩ := exec_generate_wholeBlocks hp hready 1
  obtain ⟨u, hexec_u, hout_u, hrc_u⟩ := exec_generate_wholeBlocks hp hready (1 + n)
  rw [blocksUpTo_add, ← List.append_assoc] at hout_u
  exact ⟨t, u, _, _, hexec_t, hexec_u, hout_t, hout_u, by simp, by simp, hrc_t, hrc_u⟩

/-- Settles O24, by induction on the requests: within the budget each is answered and counts RC up by 1; at RC = 1001 the
check of GENERATE fails. -/
theorem reseedBudgetIsExact : Obligations.ReseedBudgetIsExact := by
  intro s r lens hp hrc hpos hbudget
  have hr : s.rc.toNat = r := by rw [hrc, BitVec.toNat_ofNat]; omega
  induction lens generalizing s r with
  | nil =>
    refine ⟨s, rfl, hp, by simp, hrc, fun hspent L => ?_⟩
    rw [List.length_nil, Nat.add_zero] at hspent
    exact exec_generate_refused hp (generateCheck_exhausted (by omega)) L
  | cons L lens ih =>
    rw [List.length_cons] at hbudget
    have hexec := exec_generate_passed hp (generateCheck_ready (rc_ne_zero (by omega)) (by omega)) L
    have hnext : s.rc + 1 = BitVec.ofNat 32 (r + 1) := by rw [hrc, BitVec.ofNat_add]; rfl
    obtain ⟨t, hrun, hphase, hwords, hcount, hspent⟩ :=
      ih _ (r + 1) ((answered_phase ..).trans hp) hnext (by omega) (by omega)
        ((toNat_rc_add_one (by omega)).trans (by omega))
    have hsum : r + (L :: lens).length = r + 1 + lens.length := by rw [List.length_cons]; omega
    refine ⟨t, ?_, hphase, ?_, by rw [hcount, hsum], fun h => hspent (hsum ▸ h)⟩
    · simpa only [List.map_cons, execAll, hexec] using hrun
    · rw [hwords, answered_rspWords, List.append_assoc, List.length_cons, List.replicate_succ, List.singleton_append]

end Sys2Proof.Machine

/-! ## Cipher calls of a command (O25) -/

namespace Sys2Proof.Machine

@[simp] theorem length_encryptionsUpTo (cfg : Config) (k v : Block) (n : Nat) :
    (encryptionsUpTo cfg k v n).length = n := by
  simp [encryptionsUpTo]

@[simp] theorem countP_isEncrypt_encryptionsUpTo (cfg : Config) (k v : Block) (n : Nat) :
    (encryptionsUpTo cfg k v n).countP CiphEvent.isEncrypt = n := by
  induction n generalizing v with
  | zero => rfl
  | succ n ih => rw [encryptionsUpTo_succ, List.countP_cons, ih]; rfl

/-- A word that fails is refused, whether it decodes or not (R88, R140). -/
theorem step_of_failed_word {s : State} {w : CmdWord} {x : ErrorKind} (hr : s.resetAsserted = false)
    (hp : s.phase = .idle) (hl : s.level = .command) (hcmd : s.cmd = some w) (hst : commandStatus hw w s.rc = some x) :
    step s = .next (s.tick.refusedWith x) := by
  cases hdec : decodeCmd w with
  | ok i =>
    obtain ⟨effect, -, hexec⟩ := exec_eq_runCommand hdec s.tick
    rw [step_of_no_reset hr, fetch_of_offer hp hl, hcmd, offeredInstr_ok hdec, hexec, tick_rc, hst,
      runCommand_failed (s := s.tick) hp, raiseError_acceptOffer (s := s.tick) hp]
  | error e =>
    obtain rfl := Option.some.inj ((commandStatus_of_illegal hdec s.rc).symm.trans hst)
    rw [step_of_illegal hr hp hcmd hdec, raiseError_acceptOffer (s := s.tick) hp]

/-- A command that passes its checks makes its encryptions and rekeys (R156). -/
theorem exec_passed_cipherCalls {s : State} {w : CmdWord} {i : Instr} (hdec : decodeCmd w = .ok i) (hp : s.phase = .idle)
    (hst : commandStatus hw w s.rc = none) :
    ∃ t made, exec i s = .next t ∧ t.ciph = s.ciph ++ made ∧
      (made.countP CiphEvent.isEncrypt, made.length - made.countP CiphEvent.isEncrypt) =
        if cmdOp w = 1 then (2, 2) else if cmdOp w = 2 then (2, 1) else ((cmdLen w + 127) / 128 + 2, 1) := by
  have hcheck := (commandStatus_of_decode hdec s).symm.trans hst
  obtain ⟨-, ⟨hop, rfl⟩ | ⟨hop, rfl⟩ | ⟨hop, -, rfl⟩⟩ := decodeCmd_cases hdec <;> rw [hop]
  · exact ⟨_, _, exec_instantiate_passed hp hcheck, rfl, by rw [encryptionsUpTo_two]; rfl⟩
  · exact ⟨_, _, exec_reseed_passed hp hcheck, rfl, by rw [encryptionsUpTo_two]; rfl⟩
  · refine ⟨_, _, exec_generate_passed hp hcheck _, rfl, ?_⟩
    simp [CiphEvent.isEncrypt]

/-- Settles O25: a word that fails makes no transaction, and one that passes makes those of its closed form. -/
theorem cipherCallCounts : Obligations.CipherCallCounts := by
  intro s w hp hl hcmd hr
  cases hst : commandStatus hw w s.rc with
  | some x => exact ⟨_, [], step_of_failed_word hr hp hl hcmd hst, by simp, by simp⟩
  | none =>
    obtain ⟨i, hdec⟩ : ∃ i, decodeCmd w = .ok i := by
      cases hdec : decodeCmd w with
      | ok i => exact ⟨i, rfl⟩
      | error e => cases (commandStatus_of_illegal hdec s.rc).symm.trans hst
    rw [step_of_no_reset hr, fetch_of_offer hp hl, hcmd, offeredInstr_ok hdec]
    simpa using exec_passed_cipherCalls (s := s.tick) hdec hp hst

end Sys2Proof.Machine

/-! ## Progress (O40) -/

namespace Sys2Proof.Machine

/-- A busy phase runs from every state of the invariant: TLEN is legal where UPD_ENC asks (R182, R187 b). -/
theorem exec_phase_next {s : State} (h : s.Inv) (hp : s.phase ≠ .idle) : ∃ t, exec s.phase.instr s = .next t := by
  cases hphase : s.phase with
  | idle => exact absurd hphase hp
  | updEnc =>
    have htlen : s.tlen = 0 ∨ s.tlen = 16 := (h.at hphase).tlen
    exact ⟨_, if_pos htlen⟩
  | instZero | genIncr | genEnc | updIncr | updXor | updCommit | finish => exact ⟨_, rfl⟩

theorem exec_idle_next (s : State) (hp : s.phase = .idle) : ∃ t, exec .idle s = .next t := by
  cases hcmd : s.cmd with
  | none => exact ⟨_, exec_idle_wait hp hcmd⟩
  | some w => exact ⟨_, exec_idle_offered hp hcmd⟩

/-- Progress: under the invariant the next step exists (R140, R186). -/
theorem step_next_of_inv {s : State} (h : s.Inv) : ∃ t, step s = .next t := by
  obtain ⟨-, hs⟩ | ⟨-, hp, hs⟩ | ⟨-, hp, hs⟩ | ⟨-, hp, -, hi, hs⟩ := step_cases s <;> rw [hs]
  · exact ⟨_, rfl⟩
  · exact exec_phase_next h.tick hp
  · exact exec_idle_next s.tick hp
  · obtain ⟨t, hexec, -, -⟩ := exec_command_appends hi (s := s.tick) hp
    exact ⟨t, hexec⟩

/-- Settles O40, by induction on the number of steps: the next step exists and keeps the invariant. -/
theorem sequencerIsNeverStuck : Obligations.SequencerIsNeverStuck := by
  intro s n h
  induction n generalizing s with
  | zero => exact ⟨s, rfl, h⟩
  | succ n ih =>
    obtain ⟨t, hstep⟩ := step_next_of_inv h
    simpa only [run, hstep] using ih t (stepKeepsTheInvariant s t h hstep)

end Sys2Proof.Machine

/-! ## The phases, one step each (O26 to O33) -/

namespace Sys2Proof.Machine

/-! ### The counter V (R101, R102) -/

theorem block_add_one (v : Block) : v + 1 = BitVec.ofNat 128 ((v.toNat + 1) % 2 ^ 128) := by
  apply BitVec.eq_of_toNat_eq
  simp

/-- Settles O26: the zero key and vector are committed together, with their rekey. -/
theorem instZeroClearsKeyAndVector : Obligations.InstZeroClearsKeyAndVector := fun _ => rfl

/-- Settles O27: both phases increment V as a register, which is addition modulo 2^128. -/
theorem incrementPhasesAdvanceVector : Obligations.IncrementPhasesAdvanceVector := by
  intro s
  rw [← block_add_one]
  exact ⟨rfl, rfl⟩

/-! ### GEN_ENC (R180) -/

/-- GEN_ENC in terms of what is left of BITSREM and of the bytes that go out. -/
theorem exec_genEnc (s : State) : exec .genEnc s = .next { s with
    bitsrem := bitsAfterBlock hw s.bitsrem
    obs := s.obs ++ (blockOutput hw s.bitsrem (hw.E s.ck s.v)).map .out
    ciph := s.ciph ++ [.encrypt s.v (hw.E s.ck s.v)]
    phase := if bitsAfterBlock hw s.bitsrem = 0 then .updIncr else .genIncr } := rfl

theorem bitsAfterBlock_of_ge {bits : BitVec 32} (h : 128 ≤ bits.toNat) :
    bitsAfterBlock hw bits = BitVec.ofNat 32 (bits.toNat - 128) := by
  apply BitVec.eq_of_toNat_eq
  have := bits.isLt
  rw [toNat_bitsAfterBlock_of_ge h, BitVec.toNat_ofNat, Nat.mod_eq_of_lt (by omega)]

/-- From 128 bits on, none are left exactly when the block was the last. -/
theorem bitsAfterBlock_eq_zero_iff {bits : BitVec 32} (h : 128 ≤ bits.toNat) :
    bitsAfterBlock hw bits = 0 ↔ bits.toNat = 128 := by
  have hleft := toNat_bitsAfterBlock_of_ge h
  refine ⟨fun h0 => ?_, fun h128 => bitsAfterBlock_of_le h128.le⟩
  rw [h0] at hleft
  simp at hleft
  omega

/-- Settles O28: a whole block goes out while 128 bits remain, and its leftmost bits when fewer do. -/
theorem genEncWritesOneBlock : Obligations.GenEncWritesOneBlock := by
  intro s blk b
  rw [exec_genEnc]
  refine ⟨fun hge => ?_, fun hlt => ?_⟩
  · simp only [bitsAfterBlock_eq_zero_iff hge]
    rw [blockOutput_of_ge hge, bitsAfterBlock_of_ge hge]
  · rw [blockOutput_of_le hlt.le, bitsAfterBlock_of_le hlt.le, if_pos rfl]

/-! ### The update FSM (R182 to R184) -/

/-- Settles O29: TLEN says which half of TEMP the block fills, and any other TLEN is the fault. -/
theorem updEncAppendsOneBlock : Obligations.UpdEncAppendsOneBlock := by
  intro s blk
  refine ⟨fun htlen => ?_, fun htlen => ?_, fun h0 h16 => if_neg (not_or.mpr ⟨h0, h16⟩)⟩
  all_goals
    simp only [exec, execUpdEnc, updEnc, htlen]
    rfl

/-- Settles O30: the exclusive or of the registers is the one of their bits, and with zero changes none. -/
theorem updXorMixesSeed : Obligations.UpdXorMixesSeed := by
  intro s
  refine ⟨s.setTemp (s.temp ^^^ s.seedl) s.tlen, rfl, fun i _ => ?_, fun hzero => ?_⟩
  · exact BitVec.getLsbD_xor
  · simp [hzero]

/-- Settles O31: the halves of TEMP are committed together, with their rekey, and the update's latches are scrubbed. -/
theorem updCommitReplacesState : Obligations.UpdCommitReplacesState := fun _ => rfl

/-! ### FINISH (R185) -/

/-- Settles O32: RC is written, OK is the word 0, and the command's latches are scrubbed. -/
theorem finishWritesCounterAndAnswers : Obligations.FinishWritesCounterAndAnswers := fun _ => rfl

/-! ### IDLE (R175, R176) -/

/-- The LEN field is zero exactly when the number of LEN is (R89). -/
theorem cmdLen_pos_iff (w : CmdWord) : 0 < cmdLen w ↔ w.extractLsb' 32 32 ≠ 0 := by
  rw [Nat.pos_iff_ne_zero]
  exact not_congr (BitVec.toNat_inj (y := 0))

/-- Settles O33: waiting, refusing and latching are the cases of the acceptance. -/
theorem idleAcceptsOrRefuses : Obligations.IdleAcceptsOrRefuses := by
  intro s hp
  refine ⟨fun hcmd => ⟨exec_idle_wait hp hcmd, fun hnone => ?_⟩, fun w hcmd => ⟨fun x hst => ?_, fun hst => ?_⟩⟩
  · rw [exec_idle_wait hp hcmd, nextOffer_nil s hnone, ← hcmd]
  · rw [exec_idle_offered hp hcmd, acceptCommand_failed hst, raiseError_acceptOffer hp]
    rfl
  · intro op len
    rw [exec_idle_offered hp hcmd, acceptCommand_passed hst]
    have hlen : BitVec.ofNat 32 (cmdLen w) = len := BitVec.ofNat_toNat 32 len
    simp only [State.latchCommand, firstPhase, hlen, cmdLen_pos_iff]
    rfl

end Sys2Proof.Machine

/-! ## The phase graph (O41) -/

namespace Sys2Proof.Machine

/-- A word that passes its checks is latched along an edge out of IDLE (R172, R175). -/
theorem phaseEdge_latch {s : State} {w : CmdWord} (hp : s.phase = .idle) (hcmd : s.cmd = some w)
    (hst : commandStatus hw w s.rc = none) : PhaseEdge s (s.tick.acceptOffer.latchCommand w s.seedw) := by
  simp only [PhaseEdge, hp]
  refine .inr ⟨w, ⟨hcmd, hst⟩, rfl, ?_⟩
  obtain ⟨hop, -, -⟩ := commandStatus_passed hst
  obtain hop | hop | hop := hop
  · rw [latchCommand_of_instantiate _ _ hop]
    exact .inl ⟨rfl, hop⟩
  · rw [latchCommand_of_reseed _ _ hop]
    exact .inr (.inl ⟨rfl, .inl hop⟩)
  · rcases Nat.eq_zero_or_pos (cmdLen w) with hlen | hlen
    · rw [latchCommand_of_generate_zero _ _ hop hlen]
      exact .inr (.inl ⟨rfl, .inr ⟨hop, hlen, rfl⟩⟩)
    · rw [latchCommand_of_generate_pos _ _ hop hlen]
      exact .inr (.inr ⟨rfl, hop, hlen, ofNat_cmdLen_ne_zero hlen⟩)

/-- Settles O41: each thing a step can do at the FSM level follows an edge. -/
theorem phaseStepsFollowTheGraph : Obligations.PhaseStepsFollowTheGraph := by
  intro s t _ hlevel hr hstep
  cases stepsTo_of_step hstep with
  | reset hreset => cases hr.symm.trans hreset
  | command _ _ hl => cases hlevel.symm.trans hl
  | latch _ hp hcmd hst => exact phaseEdge_latch hp hcmd hst
  | wait _ hp hcmd =>
    simp only [PhaseEdge, hp]
    exact .inl ⟨by simp [hp], .inl hcmd⟩
  | refuse _ hp hcmd hst =>
    simp only [PhaseEdge, hp]
    exact .inl ⟨rfl, .inr ⟨_, hcmd, by simp [hst]⟩⟩
  | genEnc _ hp =>
    simp only [PhaseEdge, hp]
    by_cases hleft : bitsAfterBlock hw s.bitsrem = 0
    · exact .inr ⟨if_pos hleft, hleft⟩
    · exact .inl ⟨if_neg hleft, hleft⟩
  | updEncFirst _ hp =>
    simp only [PhaseEdge, hp]
    exact .inl ⟨rfl, (by decide : (16#6).toNat < 32)⟩
  | updEncSecond _ hp =>
    simp only [PhaseEdge, hp]
    exact .inr ⟨rfl, rfl⟩
  | instZero _ hp | genIncr _ hp | updIncr _ hp | updXor _ hp | updCommit _ hp | finish _ hp =>
    simp only [PhaseEdge, hp]
    rfl

end Sys2Proof.Machine

/-! ## From a phase to the end of the command (O47, O48) -/

namespace Sys2Proof.Machine

/-! ### Runs and their phases -/

/-- A state from which every run goes on as one from `t` does steps to `t`. -/
theorem step_of_run_succ {s t : State} (h : ∀ n, run (n + 1) s = run n t) : step s = .next t := by
  have hone : run 1 s = .next t := h 0
  cases hstep : step s <;> simp only [run, hstep] at hone
  · rw [hone]
  · cases hone
  · cases hone

theorem phaseTrace_succ {s t : State} (h : step s = .next t) (n : Nat) :
    phaseTrace (n + 1) s = s.phase :: phaseTrace n t := by
  simp only [phaseTrace, h]

/-- From `s` the sequencer runs exactly the phases `ps` and is then in IDLE, with one more RSP word, STATUS OK
(R54, R174, R185). -/
def State.FinishesThrough (s : State) (ps : List Phase) : Prop :=
  ∃ t, run ps.length s = .next t ∧ phaseTrace ps.length s = ps ∧ t.phase = .idle ∧ t.rspWords = s.rspWords ++ [0]

/-- The seven phases of the update FSM with FINISH (R174). -/
def updateFsm : List Phase := [.updIncr, .updEnc, .updIncr, .updEnc, .updXor, .updCommit, .finish]

/-- `m` passes of the output loop, then the update FSM (R174). -/
def generateFsm (m : Nat) : List Phase := (List.replicate m [Phase.genIncr, Phase.genEnc]).flatten ++ updateFsm

theorem generateFsm_succ (m : Nat) : generateFsm (m + 1) = .genIncr :: .genEnc :: generateFsm m := rfl

@[simp] theorem length_generateFsm (m : Nat) : (generateFsm m).length = 2 * m + 7 := by
  induction m with
  | zero => rfl
  | succ m ih => rw [generateFsm_succ, List.length_cons, List.length_cons, ih]; omega

/-! ### The phases one before the other, from FINISH back -/

section
variable {s t : State}

/-- A step in phase `p` that delivers no RSP word comes before the phases that its next state finishes through. -/
theorem State.FinishesThrough.cons {p : Phase} {ps : List Phase} (h : t.FinishesThrough ps)
    (hrun : ∀ n, run (n + 1) s = run n t) (hp : s.phase = p) (hrsp : t.rspWords = s.rspWords) :
    s.FinishesThrough (p :: ps) := by
  obtain ⟨u, hend, htrace, hidle, hok⟩ := h
  refine ⟨u, (hrun _).trans hend, ?_, hidle, hok.trans (by rw [hrsp])⟩
  rw [List.length_cons, phaseTrace_succ (step_of_run_succ hrun), htrace, hp]

theorem finishesThrough_finish (hr : s.resetIn = []) (hp : s.phase = .finish) : s.FinishesThrough [.finish] := by
  refine ⟨_, run_finish hr hp 0, ?_, rfl, rspWords_append (seen := [.rsp 0]) rfl⟩
  rw [List.length_singleton, phaseTrace_succ (step_of_run_succ (run_finish hr hp)), hp]
  rfl

theorem finishesThrough_updCommit (hr : s.resetIn = []) (hp : s.phase = .updCommit) :
    s.FinishesThrough [.updCommit, .finish] :=
  (finishesThrough_finish (by simp [hr]) rfl).cons (run_updCommit hr hp) hp rfl

theorem finishesThrough_updXor (hr : s.resetIn = []) (hp : s.phase = .updXor) :
    s.FinishesThrough [.updXor, .updCommit, .finish] :=
  (finishesThrough_updCommit (by simp [hr]) rfl).cons (run_updXor hr hp) hp rfl

theorem finishesThrough_updEnc_second (hr : s.resetIn = []) (hp : s.phase = .updEnc) (ht : s.tlen = 16) :
    s.FinishesThrough [.updEnc, .updXor, .updCommit, .finish] :=
  (finishesThrough_updXor (by simp [hr]) rfl).cons (run_updEnc_second hr hp ht) hp rfl

theorem finishesThrough_updIncr_second (hr : s.resetIn = []) (hp : s.phase = .updIncr) (ht : s.tlen = 16) :
    s.FinishesThrough [.updIncr, .updEnc, .updXor, .updCommit, .finish] :=
  (finishesThrough_updEnc_second (by simp [hr]) rfl (by simp [ht])).cons (run_updIncr hr hp) hp rfl

theorem finishesThrough_updEnc_first (hr : s.resetIn = []) (hp : s.phase = .updEnc) (ht : s.tlen = 0) :
    s.FinishesThrough [.updEnc, .updIncr, .updEnc, .updXor, .updCommit, .finish] :=
  (finishesThrough_updIncr_second (by simp [hr]) rfl rfl).cons (run_updEnc_first hr hp ht) hp rfl

theorem finishesThrough_updateFsm (hr : s.resetIn = []) (hp : s.phase = .updIncr) (ht : s.tlen = 0) :
    s.FinishesThrough updateFsm :=
  (finishesThrough_updEnc_first (by simp [hr]) rfl (by simp [ht])).cons (run_updIncr hr hp) hp rfl

theorem finishesThrough_instZero (hr : s.resetIn = []) (hp : s.phase = .instZero) (ht : s.tlen = 0) :
    s.FinishesThrough (.instZero :: updateFsm) :=
  (finishesThrough_updateFsm (by simp [hr]) rfl (by simp [ht])).cons (run_instZero hr hp) hp rfl

/-! ### The output loop (R150, R179, R180) -/

@[simp] theorem memWriteOut_rspWords (s : State) (B : List Byte) : (s.memWriteOut B).rspWords = s.rspWords := by
  rw [rspWords_append rfl, filterMap_rspWord_out, List.append_nil]

/-- A pass of the output loop leaves one block less to make (R89, R180). -/
theorem outBlocks_bitsAfterBlock (bits : BitVec 32) :
    outBlocks hw (bitsAfterBlock hw bits).toNat = outBlocks hw bits.toNat - 1 := by
  simp only [outBlocks_hw]
  rcases Nat.le_total bits.toNat 128 with hle | hge
  · rw [bitsAfterBlock_of_le hle, show (0 : BitVec 32).toNat = 0 from rfl]
    omega
  · rw [toNat_bitsAfterBlock_of_ge hge]
    omega

theorem outBlocks_eq_zero_iff (bits : BitVec 32) : outBlocks hw bits.toNat = 0 ↔ bits = 0 := by
  rw [outBlocks_hw, ← BitVec.toNat_inj, show (0 : BitVec 32).toNat = 0 from rfl]
  omega

/-- At the head of the output loop with `m` blocks still to make: GEN_INCR makes the next one, and with none to make the
update FSM follows (R150, R175, R180). -/
structure State.AtOutputLoop (s : State) (m : Nat) : Prop where
  noReset : s.resetIn = []
  tlen : s.tlen = 0
  phase : s.phase = if s.bitsrem = 0 then .updIncr else .genIncr
  blocks : outBlocks hw s.bitsrem.toNat = m

/-- GEN_ENC goes back to the head of the loop with one block less to make (R180). -/
theorem atOutputLoop_after_genEnc {m : Nat} (hr : s.resetIn = []) (ht : s.tlen = 0)
    (hm : outBlocks hw s.bitsrem.toNat = m + 1) (x : Block) (B : List Byte) :
    ((((s.cipherEncrypt hw x).memWriteOut B).setBitsrem (bitsAfterBlock hw s.bitsrem)).goto
      (if bitsAfterBlock hw s.bitsrem = 0 then .updIncr else .genIncr)).AtOutputLoop m where
  noReset := hr
  tlen := ht
  phase := rfl
  blocks := (outBlocks_bitsAfterBlock s.bitsrem).trans (by rw [hm, Nat.add_sub_cancel])

/-- GEN_ENC comes before the phases that the head of the loop finishes through. -/
theorem finishesThrough_genEnc {m : Nat} {ps : List Phase} (hr : s.resetIn = []) (hp : s.phase = .genEnc)
    (ht : s.tlen = 0) (hm : outBlocks hw s.bitsrem.toNat = m + 1)
    (hloop : ∀ t : State, t.AtOutputLoop m → t.FinishesThrough ps) : s.FinishesThrough (.genEnc :: ps) :=
  (hloop _ (atOutputLoop_after_genEnc hr ht hm _ _)).cons (run_genEnc hr hp) hp (memWriteOut_rspWords ..)

/-- The output loop runs GEN_INCR and GEN_ENC once for each block, then the update FSM (R174). -/
theorem finishesThrough_outputLoop {m : Nat} (h : s.AtOutputLoop m) : s.FinishesThrough (generateFsm m) := by
  induction m generalizing s with
  | zero =>
    have hzero : s.bitsrem = 0 := (outBlocks_eq_zero_iff _).mp h.blocks
    exact finishesThrough_updateFsm h.noReset (h.phase.trans (if_pos hzero)) h.tlen
  | succ m ih =>
    have hne : s.bitsrem ≠ 0 := fun hzero => by cases ((outBlocks_eq_zero_iff _).mpr hzero).symm.trans h.blocks
    have hp : s.phase = .genIncr := h.phase.trans (if_neg hne)
    have henc : (s.incrV.goto .genEnc).FinishesThrough (.genEnc :: generateFsm m) :=
      finishesThrough_genEnc h.noReset rfl h.tlen h.blocks fun _ => ih
    exact henc.cons (run_genIncr h.noReset hp) hp rfl

/-! ### From the acceptance (R174) -/

theorem phasesAfterAcceptance_passed {w : CmdWord} {rc : BitVec 32} (hst : commandStatus hw w rc = none) :
    phasesAfterAcceptance hw w rc =
      if cmdOp w = 1 then .instZero :: updateFsm else if cmdOp w = 2 then updateFsm
      else generateFsm (outBlocks hw (cmdLen w)) := by
  simp only [phasesAfterAcceptance, hst]
  rfl

theorem phasesAfterAcceptance_failed {w : CmdWord} {rc : BitVec 32} {x : ErrorKind}
    (hst : commandStatus hw w rc = some x) : phasesAfterAcceptance hw w rc = [] := by
  simp only [phasesAfterAcceptance, hst]

theorem length_phasesAfterAcceptance (w : CmdWord) (s : State) :
    (phasesAfterAcceptance hw w s.rc).length = stepsAfterAcceptance hw w s.rc := by
  cases hst : commandStatus hw w s.rc with
  | some x => rw [phasesAfterAcceptance_failed hst, stepsAfterAcceptance_failed hst, List.length_nil]
  | none =>
    rw [phasesAfterAcceptance_passed hst, stepsAfterAcceptance_passed hst, apply_ite List.length, apply_ite List.length,
      length_generateFsm]
    rfl

/-- A latched command runs the phases of R174. -/
theorem finishesThrough_latchCommand {w : CmdWord} (hr : s.resetIn = []) (hst : commandStatus hw w s.rc = none)
    (seedw : SeedWord) : (s.latchCommand w seedw).FinishesThrough (phasesAfterAcceptance hw w s.rc) := by
  rw [phasesAfterAcceptance_passed hst]
  obtain ⟨hop, -, -⟩ := commandStatus_passed hst
  obtain hop | hop | hop := hop
  · rw [if_pos hop, latchCommand_of_instantiate s seedw hop]
    exact finishesThrough_instZero hr rfl rfl
  · rw [if_neg (by simp [hop]), if_pos hop, latchCommand_of_reseed s seedw hop]
    exact finishesThrough_updateFsm hr rfl rfl
  · rw [if_neg (by simp [hop]), if_neg (by simp [hop])]
    apply finishesThrough_outputLoop
    rcases Nat.eq_zero_or_pos (cmdLen w) with hlen | hlen
    · rw [latchCommand_of_generate_zero s seedw hop hlen, hlen]
      exact ⟨hr, rfl, rfl, rfl⟩
    · rw [latchCommand_of_generate_pos s seedw hop hlen]
      refine ⟨hr, rfl, (if_neg (ofNat_cmdLen_ne_zero hlen)).symm, ?_⟩
      rw [BitVec.toNat_ofNat, Nat.mod_eq_of_lt (cmdLen_lt w)]

/-- At the FSM level the first step of a command is its acceptance (R175, R176). -/
theorem run_succ_of_offer {w : CmdWord} (hl : s.level = .fsm) (hp : s.phase = .idle) (hr : s.resetIn = [])
    (hcmd : s.cmd = some w) (n : Nat) : run (n + 1) s = run n (acceptCommand hw w s) :=
  run_succ_of_phase hr (.inr hl) (by rw [hp]; exact exec_idle_offered hp hcmd) n

end

/-- Settles O47: a command that fails is back in IDLE at its acceptance, and the latches of one that passes lead through
its phases. -/
theorem phaseSequences : Obligations.PhaseSequences := by
  intro s w hl hp hr hcmd
  have hlen := length_phasesAfterAcceptance w s
  have hrun := run_succ_of_offer hl hp hr hcmd
  refine ⟨hlen, ?_⟩
  rw [← hlen, Nat.add_comm, hrun, phaseTrace_succ (step_of_run_succ hrun), hp]
  cases hst : commandStatus hw w s.rc with
  | some x =>
    rw [phasesAfterAcceptance_failed hst, acceptCommand_failed hst]
    exact ⟨rfl, _, rfl, rfl⟩
  | none =>
    have hlatched := finishesThrough_latchCommand (s := s.acceptOffer) (by simpa using hr) (by simpa using hst) s.seedw
    rw [acceptOffer_rc] at hlatched
    obtain ⟨t, hend, htrace, hidle, -⟩ := hlatched
    rw [acceptCommand_passed hst]
    exact ⟨congrArg _ htrace, t, hend, hidle⟩

/-! ### From any busy state of the invariant (R197) -/

theorem outBlocks_le (bits : BitVec 32) : outBlocks hw bits.toNat ≤ 2 ^ 25 := by
  have := bits.isLt
  rw [outBlocks_hw]
  omega

/-- Under the invariant a busy sequencer finishes, through no more phases than a GENERATE of the largest LEN has. -/
theorem finishesThrough_of_inv {s : State} (h : s.Inv) (hp : s.phase ≠ .idle) (hr : s.resetIn = []) :
    ∃ ps, s.FinishesThrough ps ∧ 1 ≤ ps.length ∧ ps.length ≤ 2 * 2 ^ 25 + 7 := by
  have hle := outBlocks_le s.bitsrem
  cases hphase : s.phase <;> have hat := h.at hphase
  case idle => exact absurd hphase hp
  case instZero => exact ⟨_, finishesThrough_instZero hr hphase hat.tlen, by simp, by simp [updateFsm]⟩
  case genIncr =>
    have hloop : s.AtOutputLoop _ := ⟨hr, hat.tlen, hphase.trans (if_neg hat.bitsrem).symm, rfl⟩
    refine ⟨_, finishesThrough_outputLoop hloop, ?_⟩
    rw [length_generateFsm]
    omega
  case genEnc =>
    obtain ⟨m, hm⟩ := Nat.exists_eq_succ_of_ne_zero (mt (outBlocks_eq_zero_iff s.bitsrem).mp hat.bitsrem)
    refine ⟨_, finishesThrough_genEnc hr hphase hat.tlen hm fun _ => finishesThrough_outputLoop, ?_⟩
    rw [List.length_cons, length_generateFsm]
    omega
  case updIncr =>
    obtain ht | ht := hat.tlen
    · exact ⟨_, finishesThrough_updateFsm hr hphase ht, by simp [updateFsm], by simp [updateFsm]⟩
    · exact ⟨_, finishesThrough_updIncr_second hr hphase ht, by simp, by simp⟩
  case updEnc =>
    obtain ht | ht := hat.tlen
    · exact ⟨_, finishesThrough_updEnc_first hr hphase ht, by simp, by simp⟩
    · exact ⟨_, finishesThrough_updEnc_second hr hphase ht, by simp, by simp⟩
  case updXor => exact ⟨_, finishesThrough_updXor hr hphase, by simp, by simp⟩
  case updCommit => exact ⟨_, finishesThrough_updCommit hr hphase, by simp, by simp⟩
  case finish => exact ⟨_, finishesThrough_finish hr hphase, by simp, by simp⟩

/-- Settles O48: the number of steps is the number of phases left. -/
theorem everyAcceptedCommandFinishes : Obligations.EveryAcceptedCommandFinishes := by
  intro s h hp hr
  obtain ⟨ps, ⟨t, hend, -, hidle, hok⟩, hpos, hbound⟩ := finishesThrough_of_inv h hp hr
  exact ⟨ps.length, t, hpos, hbound, hend, hidle, hok⟩

end Sys2Proof.Machine

/-! ## A reset abandons the command (O37) -/

namespace Sys2Proof.Machine

/-- A step that takes a reset gives the registers the values of R34 and touches neither the ports nor what was observed. -/
theorem takeReset_tick_eq (s : State) :
    s.tick.takeReset = { s with
      key := 0, v := 0, rc := 0, phase := .idle, opl := 0, bitsrem := 0, seedl := 0, temp := 0, tlen := 0
      ck := Config.ckAfterReset (s.resets + 1), resetIn := s.resetIn.tail, resets := s.resets + 1 } := rfl

/-- The registers of a reset state already have the values of R34: a second reset changes CK alone among them (R230). -/
theorem takeReset_tick_takeReset (s : State) :
    s.takeReset.tick.takeReset = { s.takeReset with
      ck := Config.ckAfterReset (s.resets + 2), resetIn := s.resetIn.tail, resets := s.resets + 2 } := rfl

/-- Settles O37: a reset that is asserted is the whole of its step, and a reset of a reset state finds every register but CK
at its reset value. -/
theorem resetAbandonsTheCommand : Obligations.ResetAbandonsTheCommand := by
  intro s hreset
  refine ⟨s.tick.takeReset, step_of_reset hreset, takeReset_tick_eq s, fun hagain => ?_⟩
  exact ⟨_, step_of_reset hagain, takeReset_tick_takeReset s.tick⟩

end Sys2Proof.Machine

/-! ## A command cut short (O49) -/

namespace Sys2Proof.Machine

/-- A run whose first step succeeds goes on from that step's next state. -/
theorem run_succ_of_step {s t : State} (h : step s = .next t) (n : Nat) : run (n + 1) s = run n t := by
  simp only [run, h]

/-- A run that succeeds began with a step that does. -/
theorem step_next_of_run {s u : State} {n : Nat} (h : run (n + 1) s = .next u) : ∃ t, step s = .next t := by
  cases hstep : step s <;> simp only [run, hstep] at h
  · exact ⟨_, rfl⟩
  · cases h
  · cases h

/-- A longer run goes on from the state that a shorter one reaches. -/
theorem run_add_of_run {s t : State} {n : Nat} (h : run n s = .next t) (m : Nat) : run (n + m) s = run m t := by
  induction n generalizing s with
  | zero =>
    cases h
    rw [Nat.zero_add]
  | succ n ih =>
    obtain ⟨next, hstep⟩ := step_next_of_run h
    rw [run_succ_of_step hstep] at h
    rw [Nat.succ_add, run_succ_of_step hstep, ih h]

/-- Along a run the OUT stream only grows at its end (R55). -/
theorem outStream_prefix_of_run {s t : State} {n : Nat} (h : run n s = .next t) : s.outStream <+: t.outStream := by
  induction n generalizing s with
  | zero =>
    cases h
    exact List.prefix_rfl
  | succ n ih =>
    obtain ⟨next, hstep⟩ := step_next_of_run h
    rw [run_succ_of_step hstep] at h
    have hgrows : s.outStream <+: next.outStream := ⟨_, (step_outStream hstep).symm⟩
    exact hgrows.trans (ih h)

/-- Settles O49: the phase machine goes on from where the command was cut short to the state the command level reaches (O46,
O47), and on the way the OUT stream only grows at its end. -/
theorem interruptedOutputIsAPrefix : Obligations.InterruptedOutputIsAPrefix := by
  intro s t w i n hlevel hphase hreset hopl hbits hseedl htemp htlen hcmd hdec hn hcut
  have hwhole := phaseMachineRefinesCommandLevel s w i hlevel hphase hreset hopl hbits hseedl htemp htlen hcmd hdec
  obtain ⟨-, -, u, hend, -⟩ := phaseSequences s w hlevel hphase hreset hcmd
  obtain ⟨m, hm⟩ := Nat.exists_eq_add_of_le hn
  have hcontinue : run m t = .next u := by rw [← run_add_of_run hcut, ← hm, hend]
  obtain ⟨rest, hrest⟩ := outStream_prefix_of_run hcontinue
  exact ⟨u, rest, hwhole.symm.trans hend, hrest.symm⟩

end Sys2Proof.Machine
